-- ==== Sys2Proof/Word.lean ====
section
/-! DEFINITION. The two word types of the core (spec 00_scope.md R3, section 6). -/

namespace Sys2Proof

/-- A byte, 8 bits (spec 00_scope.md section 6). -/
abbrev Byte := BitVec 8

/-- A word, 16 bits: an address or the program counter (spec 00_scope.md section 6). -/
abbrev Word := BitVec 16

end Sys2Proof
end

