-- ==== Sys2Proof/Config.lean ====
section
/-! DEFINITION. What an implementation of the core fixes and the spec leaves open: the open parameters
of spec 00_scope.md R3 that an operation of the core uses. The other open parameters of R3 are
contents of memory (RAM_INIT, CHR_RAM_INIT), held in the state, and the stop predicate of a claim
(`RunsTo` in Safety.lean). -/

namespace Sys2Proof

/-- The Mapper variants a registry can name. The spec describes one, "direct-mapped", and its scope
leaves the others out (spec 00_scope.md section 3, 20_memory.md R56; log 9). -/
inductive MapperVariant where
  | direct
  deriving DecidableEq, Repr

/-- The open parameters "the model takes as an argument" (spec 00_scope.md R3), as plain data.
`State` carries them, so a statement about every state holds for every value of them (log 6). -/
structure Params where
  /-- BRK_PAD, 0 or 1 (spec D11, 45_stack_flags_system.md R212). -/
  brkPad : Fin 2
  /-- ILLEGAL_CYCLES (spec D8, R214): an entry `(op, n)` gives the illegal byte `op` the cost `n + 1`,
  which is at least 1; a byte with no entry costs the spec's default 2. -/
  illegalCosts : List (Byte × Nat)
  /-- MAPPER_REGISTRY (spec D18, 20_memory.md R56): a finite map from selectors to Mapper variants. An
  entry `(n, v)` registers `v` for the selector `n`, the first entry of a selector counting. -/
  registry : List (Fin 256 × MapperVariant)
  deriving DecidableEq, Repr

/-- The defaults the spec suggests: BRK_PAD = 1, ILLEGAL_CYCLES = 2 for every byte, and the one entry
0 ↦ direct-mapped (spec 92_eei_decisions.md, "Open parameters, collected"). -/
def Params.default : Params := { brkPad := 1, illegalCosts := [], registry := [(0, .direct)] }

end Sys2Proof
end

