-- ==== Sys2Proof/Syntax/Parts.lean ====
section
/-! DEFINITION. The parts an instruction is made of: the 57 mnemonics and 13 addressing modes of the
instruction table (spec 30_encoding.md R81, R85), and for each group of mnemonics the operands the
table gives it, each with its operand bytes, so that an operand form the table lacks cannot be
written. -/

namespace Sys2Proof

/-- The 56 mnemonics and the placeholder ILL (spec 30_encoding.md R85, R87). -/
inductive Mnemonic where
  | lda | ldx | ldy | sta | stx | sty | tax | tay | txa | tya | tsx | txs
  | adc | sbc | and | ora | eor | bit | cmp | cpx | cpy | inc | dec | inx | iny | dex | dey
  | asl | lsr | rol | ror
  | bcc | bcs | beq | bne | bmi | bpl | bvc | bvs | jmp | jsr | rts
  | pha | php | pla | plp | clc | sec | cli | sei | cld | sed | clv | nop | brk | rti | ill
  deriving DecidableEq, Repr

/-- The 13 addressing modes, by the spec's mode ids (spec 30_encoding.md R81). -/
inductive Mode where
  | imp | acc | imm | rel | zp0 | zpx | zpy | abs | abx | aby | ind | izx | izy
  deriving DecidableEq, Repr

/-- The base cost of a table entry: a number, or the open parameter ILLEGAL_CYCLES of an illegal byte
(spec 30_encoding.md R85, R87). -/
inductive BaseCost where
  | fixed (n : Nat)
  | illegalCycles
  deriving DecidableEq, Repr

/-- The extra-cycle flag of a table entry (spec 30_encoding.md R86). -/
inductive ExtraCycles where
  | none
  | pageCross
  | branch
  deriving DecidableEq, Repr

/-- One entry of the instruction table: "the mnemonic, the addressing mode, the base cycle cost and
the extra-cycle flag" (spec 30_encoding.md R82). -/
structure Entry where
  mnemonic : Mnemonic
  mode : Mode
  cost : BaseCost
  extra : ExtraCycles
  deriving DecidableEq, Repr

/-- The operands that yield a data address, with their operand bytes: the nine modes of
spec 40_step_and_addressing.md R117. A two-byte operand is held as the word it assembles to (R84). -/
inductive Operand where
  | imm (b : Byte)
  | zp0 (b : Byte)
  | zpx (b : Byte)
  | zpy (b : Byte)
  | abs (w : Word)
  | abx (w : Word)
  | aby (w : Word)
  | izx (b : Byte)
  | izy (b : Byte)
  deriving DecidableEq, Repr

/-- Operands of LDA, ADC, SBC, AND, ORA, EOR, CMP. -/
inductive AluOperand where
  | imm (b : Byte) | zp0 (b : Byte) | zpx (b : Byte) | abs (w : Word) | abx (w : Word) | aby (w : Word)
  | izx (b : Byte) | izy (b : Byte)
  deriving DecidableEq, Repr

/-- Operands of STA: those of LDA but for Immediate (spec 41_load_store_transfer.md R133). -/
inductive StaOperand where
  | zp0 (b : Byte) | zpx (b : Byte) | abs (w : Word) | abx (w : Word) | aby (w : Word)
  | izx (b : Byte) | izy (b : Byte)
  deriving DecidableEq, Repr

/-- Operands of LDX (spec 41_load_store_transfer.md R131). -/
inductive LdxOperand where
  | imm (b : Byte) | zp0 (b : Byte) | zpy (b : Byte) | abs (w : Word) | aby (w : Word)
  deriving DecidableEq, Repr

/-- Operands of LDY (spec 41_load_store_transfer.md R132). -/
inductive LdyOperand where
  | imm (b : Byte) | zp0 (b : Byte) | zpx (b : Byte) | abs (w : Word) | abx (w : Word)
  deriving DecidableEq, Repr

/-- Operands of STX (spec 41_load_store_transfer.md R134). -/
inductive StxOperand where
  | zp0 (b : Byte) | zpy (b : Byte) | abs (w : Word)
  deriving DecidableEq, Repr

/-- Operands of STY (spec 41_load_store_transfer.md R135). -/
inductive StyOperand where
  | zp0 (b : Byte) | zpx (b : Byte) | abs (w : Word)
  deriving DecidableEq, Repr

/-- Operands of BIT (spec 42_arithmetic_logic.md R156). -/
inductive BitOperand where
  | zp0 (b : Byte) | abs (w : Word)
  deriving DecidableEq, Repr

/-- Operands of CPX and CPY (spec 42_arithmetic_logic.md R159, R160). -/
inductive CpxOperand where
  | imm (b : Byte) | zp0 (b : Byte) | abs (w : Word)
  deriving DecidableEq, Repr

/-- Operands of INC and DEC, and the memory operands of the shifts (spec 42_arithmetic_logic.md R161,
R162, 43_shift_rotate.md R170). -/
inductive RmwOperand where
  | zp0 (b : Byte) | zpx (b : Byte) | abs (w : Word) | abx (w : Word)
  deriving DecidableEq, Repr

/-- Operands of ASL, LSR, ROL, ROR: the accumulator or a memory location (spec 43_shift_rotate.md
R170). -/
inductive ShiftOperand where
  | acc
  | mem (o : RmwOperand)
  deriving DecidableEq, Repr

/-- Operands of JMP (spec 44_branch_jump.md R189). -/
inductive JmpOperand where
  | abs (w : Word) | ind (w : Word)
  deriving DecidableEq, Repr

end Sys2Proof
end

