-- ==== Sys2Proof/Syntax.lean ====
section
/-! DEFINITION. The instructions of the core, one constructor for each mnemonic of
spec/opcode_table.json, its operand an argument: each legal row of the table is one operand shape of
one constructor, and the 105 illegal rows are `ill op` for the 105 illegal bytes `op` (spec
30_encoding.md R85, R87). -/

namespace Sys2Proof

/-- The instruction set (spec 30_encoding.md R85). A branch holds its signed offset byte (R83). -/
inductive Instr where
  | lda (o : AluOperand)
  | ldx (o : LdxOperand)
  | ldy (o : LdyOperand)
  | sta (o : StaOperand)
  | stx (o : StxOperand)
  | sty (o : StyOperand)
  | tax
  | tay
  | txa
  | tya
  | tsx
  | txs
  | adc (o : AluOperand)
  | sbc (o : AluOperand)
  | and (o : AluOperand)
  | ora (o : AluOperand)
  | eor (o : AluOperand)
  | bit (o : BitOperand)
  | cmp (o : AluOperand)
  | cpx (o : CpxOperand)
  | cpy (o : CpxOperand)
  | inc (o : RmwOperand)
  | dec (o : RmwOperand)
  | inx
  | iny
  | dex
  | dey
  | asl (o : ShiftOperand)
  | lsr (o : ShiftOperand)
  | rol (o : ShiftOperand)
  | ror (o : ShiftOperand)
  | bcc (d : Byte)
  | bcs (d : Byte)
  | beq (d : Byte)
  | bne (d : Byte)
  | bmi (d : Byte)
  | bpl (d : Byte)
  | bvc (d : Byte)
  | bvs (d : Byte)
  | jmp (o : JmpOperand)
  | jsr (w : Word)
  | rts
  | pha
  | php
  | pla
  | plp
  | clc
  | sec
  | cli
  | sei
  | cld
  | sed
  | clv
  | nop
  | brk
  | rti
  | ill (op : Byte)
  deriving DecidableEq, Repr

end Sys2Proof
end

