-- ==== Sys2Proof/Decode.lean ====
section
/-! DEFINITION. The instruction table, the decoder and the encoder (spec 30_encoding.md). The decoder
is "a total lookup of the whole byte in the 256-entry table" (R82), the table transcribed from the
opcode matrix of R85; the encoder is written from the forms listed by mnemonic there, the second
table of R85, so that their agreement checks one transcription against the other. -/

namespace Sys2Proof

/-! ### Byte order, pages, sign extension -/

/-- Bits 7:0 of a word (spec 00_scope.md section 6). -/
def loByte (w : Word) : Byte := w.setWidth 8

/-- Bits 15:8 of a word (spec 00_scope.md section 6). -/
def hiByte (w : Word) : Byte := (w >>> 8).setWidth 8

/-- The word `hi:lo` (spec 00_scope.md section 6, 20_memory.md R51). -/
def mkWord (hi lo : Byte) : Word := hi ++ lo

/-- `page(a)`, bits 15:8 of an address (spec 00_scope.md section 6). -/
def page (a : Word) : Byte := hiByte a

/-- `sext_16(b)` (spec 00_scope.md section 6, 30_encoding.md R83). -/
def signExtend16 (b : Byte) : Word := b.signExtend 16

/-- `zext_16(b)` (spec 00_scope.md section 6, 30_encoding.md R83). -/
def zeroExtend16 (b : Byte) : Word := b.setWidth 16

/-! ### The instruction table -/

/-- An entry with no extra-cycle flag. -/
def plain (m : Mnemonic) (md : Mode) (n : Nat) : Entry := ⟨m, md, .fixed n, .none⟩

/-- A page-cross eligible entry, `+` in the matrix (spec 30_encoding.md R86). -/
def crossing (m : Mnemonic) (md : Mode) (n : Nat) : Entry := ⟨m, md, .fixed n, .pageCross⟩

/-- A branch entry, `*` in the matrix: Relative, base cost 2 (spec 30_encoding.md R85, R86). -/
def branching (m : Mnemonic) : Entry := ⟨m, .rel, .fixed 2, .branch⟩

/-- The placeholder entry ILL: Implied, cost ILLEGAL_CYCLES (spec 30_encoding.md R87). -/
def illegalEntry : Entry := ⟨.ill, .imp, .illegalCycles, .none⟩

/-- Row 0x of the opcode matrix (spec 30_encoding.md R85). -/
def opcodeRow0 : List Entry :=
  [plain .brk .imp 7, plain .ora .izx 6, illegalEntry, illegalEntry,
   illegalEntry, plain .ora .zp0 3, plain .asl .zp0 5, illegalEntry,
   plain .php .imp 3, plain .ora .imm 2, plain .asl .acc 2, illegalEntry,
   illegalEntry, plain .ora .abs 4, plain .asl .abs 6, illegalEntry]

/-- Row 1x of the opcode matrix (spec 30_encoding.md R85). -/
def opcodeRow1 : List Entry :=
  [branching .bpl, crossing .ora .izy 5, illegalEntry, illegalEntry,
   illegalEntry, plain .ora .zpx 4, plain .asl .zpx 6, illegalEntry,
   plain .clc .imp 2, crossing .ora .aby 4, illegalEntry, illegalEntry,
   illegalEntry, crossing .ora .abx 4, plain .asl .abx 7, illegalEntry]

/-- Row 2x of the opcode matrix (spec 30_encoding.md R85). -/
def opcodeRow2 : List Entry :=
  [plain .jsr .abs 6, plain .and .izx 6, illegalEntry, illegalEntry,
   plain .bit .zp0 3, plain .and .zp0 3, plain .rol .zp0 5, illegalEntry,
   plain .plp .imp 4, plain .and .imm 2, plain .rol .acc 2, illegalEntry,
   plain .bit .abs 4, plain .and .abs 4, plain .rol .abs 6, illegalEntry]

/-- Row 3x of the opcode matrix (spec 30_encoding.md R85). -/
def opcodeRow3 : List Entry :=
  [branching .bmi, crossing .and .izy 5, illegalEntry, illegalEntry,
   illegalEntry, plain .and .zpx 4, plain .rol .zpx 6, illegalEntry,
   plain .sec .imp 2, crossing .and .aby 4, illegalEntry, illegalEntry,
   illegalEntry, crossing .and .abx 4, plain .rol .abx 7, illegalEntry]

/-- Row 4x of the opcode matrix (spec 30_encoding.md R85). -/
def opcodeRow4 : List Entry :=
  [plain .rti .imp 6, plain .eor .izx 6, illegalEntry, illegalEntry,
   illegalEntry, plain .eor .zp0 3, plain .lsr .zp0 5, illegalEntry,
   plain .pha .imp 3, plain .eor .imm 2, plain .lsr .acc 2, illegalEntry,
   plain .jmp .abs 3, plain .eor .abs 4, plain .lsr .abs 6, illegalEntry]

/-- Row 5x of the opcode matrix (spec 30_encoding.md R85). -/
def opcodeRow5 : List Entry :=
  [branching .bvc, crossing .eor .izy 5, illegalEntry, illegalEntry,
   illegalEntry, plain .eor .zpx 4, plain .lsr .zpx 6, illegalEntry,
   plain .cli .imp 2, crossing .eor .aby 4, illegalEntry, illegalEntry,
   illegalEntry, crossing .eor .abx 4, plain .lsr .abx 7, illegalEntry]

/-- Row 6x of the opcode matrix (spec 30_encoding.md R85). -/
def opcodeRow6 : List Entry :=
  [plain .rts .imp 6, plain .adc .izx 6, illegalEntry, illegalEntry,
   illegalEntry, plain .adc .zp0 3, plain .ror .zp0 5, illegalEntry,
   plain .pla .imp 4, plain .adc .imm 2, plain .ror .acc 2, illegalEntry,
   plain .jmp .ind 5, plain .adc .abs 4, plain .ror .abs 6, illegalEntry]

/-- Row 7x of the opcode matrix (spec 30_encoding.md R85). -/
def opcodeRow7 : List Entry :=
  [branching .bvs, crossing .adc .izy 5, illegalEntry, illegalEntry,
   illegalEntry, plain .adc .zpx 4, plain .ror .zpx 6, illegalEntry,
   plain .sei .imp 2, crossing .adc .aby 4, illegalEntry, illegalEntry,
   illegalEntry, crossing .adc .abx 4, plain .ror .abx 7, illegalEntry]

/-- Row 8x of the opcode matrix (spec 30_encoding.md R85). -/
def opcodeRow8 : List Entry :=
  [illegalEntry, plain .sta .izx 6, illegalEntry, illegalEntry,
   plain .sty .zp0 3, plain .sta .zp0 3, plain .stx .zp0 3, illegalEntry,
   plain .dey .imp 2, illegalEntry, plain .txa .imp 2, illegalEntry,
   plain .sty .abs 4, plain .sta .abs 4, plain .stx .abs 4, illegalEntry]

/-- Row 9x of the opcode matrix (spec 30_encoding.md R85). -/
def opcodeRow9 : List Entry :=
  [branching .bcc, plain .sta .izy 6, illegalEntry, illegalEntry,
   plain .sty .zpx 4, plain .sta .zpx 4, plain .stx .zpy 4, illegalEntry,
   plain .tya .imp 2, plain .sta .aby 5, plain .txs .imp 2, illegalEntry,
   illegalEntry, plain .sta .abx 5, illegalEntry, illegalEntry]

/-- Row Ax of the opcode matrix (spec 30_encoding.md R85). -/
def opcodeRowA : List Entry :=
  [plain .ldy .imm 2, plain .lda .izx 6, plain .ldx .imm 2, illegalEntry,
   plain .ldy .zp0 3, plain .lda .zp0 3, plain .ldx .zp0 3, illegalEntry,
   plain .tay .imp 2, plain .lda .imm 2, plain .tax .imp 2, illegalEntry,
   plain .ldy .abs 4, plain .lda .abs 4, plain .ldx .abs 4, illegalEntry]

/-- Row Bx of the opcode matrix (spec 30_encoding.md R85). -/
def opcodeRowB : List Entry :=
  [branching .bcs, crossing .lda .izy 5, illegalEntry, illegalEntry,
   plain .ldy .zpx 4, plain .lda .zpx 4, plain .ldx .zpy 4, illegalEntry,
   plain .clv .imp 2, crossing .lda .aby 4, plain .tsx .imp 2, illegalEntry,
   crossing .ldy .abx 4, crossing .lda .abx 4, crossing .ldx .aby 4, illegalEntry]

/-- Row Cx of the opcode matrix (spec 30_encoding.md R85). -/
def opcodeRowC : List Entry :=
  [plain .cpy .imm 2, plain .cmp .izx 6, illegalEntry, illegalEntry,
   plain .cpy .zp0 3, plain .cmp .zp0 3, plain .dec .zp0 5, illegalEntry,
   plain .iny .imp 2, plain .cmp .imm 2, plain .dex .imp 2, illegalEntry,
   plain .cpy .abs 4, plain .cmp .abs 4, plain .dec .abs 6, illegalEntry]

/-- Row Dx of the opcode matrix (spec 30_encoding.md R85). -/
def opcodeRowD : List Entry :=
  [branching .bne, crossing .cmp .izy 5, illegalEntry, illegalEntry,
   illegalEntry, plain .cmp .zpx 4, plain .dec .zpx 6, illegalEntry,
   plain .cld .imp 2, crossing .cmp .aby 4, illegalEntry, illegalEntry,
   illegalEntry, crossing .cmp .abx 4, plain .dec .abx 7, illegalEntry]

/-- Row Ex of the opcode matrix (spec 30_encoding.md R85). -/
def opcodeRowE : List Entry :=
  [plain .cpx .imm 2, plain .sbc .izx 6, illegalEntry, illegalEntry,
   plain .cpx .zp0 3, plain .sbc .zp0 3, plain .inc .zp0 5, illegalEntry,
   plain .inx .imp 2, plain .sbc .imm 2, plain .nop .imp 2, illegalEntry,
   plain .cpx .abs 4, plain .sbc .abs 4, plain .inc .abs 6, illegalEntry]

/-- Row Fx of the opcode matrix (spec 30_encoding.md R85). -/
def opcodeRowF : List Entry :=
  [branching .beq, crossing .sbc .izy 5, illegalEntry, illegalEntry,
   illegalEntry, plain .sbc .zpx 4, plain .inc .zpx 6, illegalEntry,
   plain .sed .imp 2, crossing .sbc .aby 4, illegalEntry, illegalEntry,
   illegalEntry, crossing .sbc .abx 4, plain .inc .abx 7, illegalEntry]

/-- The opcode matrix, a row for each high hexadecimal digit (spec 30_encoding.md R85). -/
def opcodeMatrix : List (List Entry) :=
  [opcodeRow0, opcodeRow1, opcodeRow2, opcodeRow3, opcodeRow4, opcodeRow5, opcodeRow6, opcodeRow7] ++
  [opcodeRow8, opcodeRow9, opcodeRowA, opcodeRowB, opcodeRowC, opcodeRowD, opcodeRowE, opcodeRowF]

/-- `TABLE[opcode]`: the entry of an opcode byte (spec 30_encoding.md R82, R85). -/
def entry (op : Byte) : Entry :=
  (opcodeMatrix.getD (op.toNat / 16) []).getD (op.toNat % 16) illegalEntry

/-- How many operand bytes a mode consumes (spec 30_encoding.md R81). -/
def Mode.operandBytes : Mode → Nat
  | .imp | .acc => 0
  | .imm | .rel | .zp0 | .zpx | .zpy | .izx | .izy => 1
  | .abs | .abx | .aby | .ind => 2

/-- The length in bytes of the instruction an opcode byte begins (spec 30_encoding.md R81). -/
def instrLength (op : Byte) : Nat := 1 + (entry op).mode.operandBytes

/-! ### Operands and their bytes -/

/-- The data operand that an operand of this group is. -/
def AluOperand.operand : AluOperand → Operand
  | .imm b => .imm b
  | .zp0 b => .zp0 b
  | .zpx b => .zpx b
  | .abs w => .abs w
  | .abx w => .abx w
  | .aby w => .aby w
  | .izx b => .izx b
  | .izy b => .izy b

/-- The data operand that an operand of this group is. -/
def StaOperand.operand : StaOperand → Operand
  | .zp0 b => .zp0 b
  | .zpx b => .zpx b
  | .abs w => .abs w
  | .abx w => .abx w
  | .aby w => .aby w
  | .izx b => .izx b
  | .izy b => .izy b

/-- The data operand that an operand of this group is. -/
def LdxOperand.operand : LdxOperand → Operand
  | .imm b => .imm b
  | .zp0 b => .zp0 b
  | .zpy b => .zpy b
  | .abs w => .abs w
  | .aby w => .aby w

/-- The data operand that an operand of this group is. -/
def LdyOperand.operand : LdyOperand → Operand
  | .imm b => .imm b
  | .zp0 b => .zp0 b
  | .zpx b => .zpx b
  | .abs w => .abs w
  | .abx w => .abx w

/-- The data operand that an operand of this group is. -/
def StxOperand.operand : StxOperand → Operand
  | .zp0 b => .zp0 b
  | .zpy b => .zpy b
  | .abs w => .abs w

/-- The data operand that an operand of this group is. -/
def StyOperand.operand : StyOperand → Operand
  | .zp0 b => .zp0 b
  | .zpx b => .zpx b
  | .abs w => .abs w

/-- The data operand that an operand of this group is. -/
def BitOperand.operand : BitOperand → Operand
  | .zp0 b => .zp0 b
  | .abs w => .abs w

/-- The data operand that an operand of this group is. -/
def CpxOperand.operand : CpxOperand → Operand
  | .imm b => .imm b
  | .zp0 b => .zp0 b
  | .abs w => .abs w

/-- The data operand that an operand of this group is. -/
def RmwOperand.operand : RmwOperand → Operand
  | .zp0 b => .zp0 b
  | .zpx b => .zpx b
  | .abs w => .abs w
  | .abx w => .abx w

/-- The mode of a data operand. -/
def Operand.mode : Operand → Mode
  | .imm _ => .imm
  | .zp0 _ => .zp0
  | .zpx _ => .zpx
  | .zpy _ => .zpy
  | .abs _ => .abs
  | .abx _ => .abx
  | .aby _ => .aby
  | .izx _ => .izx
  | .izy _ => .izy

/-- The operand bytes of a data operand: one byte, or low byte then high byte (spec 30_encoding.md
R83, R84). -/
def Operand.bytes : Operand → List Byte
  | .imm b | .zp0 b | .zpx b | .zpy b | .izx b | .izy b => [b]
  | .abs w | .abx w | .aby w => [loByte w, hiByte w]

/-- The mode of a shift operand. -/
def ShiftOperand.mode : ShiftOperand → Mode
  | .acc => .acc
  | .mem o => o.operand.mode

/-- The operand bytes of a shift operand. -/
def ShiftOperand.bytes : ShiftOperand → List Byte
  | .acc => []
  | .mem o => o.operand.bytes

/-! ### The decoder -/

/-- The operand of this group for a mode and the operand bytes, if the group has the mode. -/
def AluOperand.ofMode (m : Mode) (b1 b2 : Byte) : Option AluOperand :=
  match m with
  | .imm => some (.imm b1)
  | .zp0 => some (.zp0 b1)
  | .zpx => some (.zpx b1)
  | .abs => some (.abs (mkWord b2 b1))
  | .abx => some (.abx (mkWord b2 b1))
  | .aby => some (.aby (mkWord b2 b1))
  | .izx => some (.izx b1)
  | .izy => some (.izy b1)
  | _ => none

/-- The operand of this group for a mode and the operand bytes, if the group has the mode. -/
def StaOperand.ofMode (m : Mode) (b1 b2 : Byte) : Option StaOperand :=
  match m with
  | .zp0 => some (.zp0 b1)
  | .zpx => some (.zpx b1)
  | .abs => some (.abs (mkWord b2 b1))
  | .abx => some (.abx (mkWord b2 b1))
  | .aby => some (.aby (mkWord b2 b1))
  | .izx => some (.izx b1)
  | .izy => some (.izy b1)
  | _ => none

/-- The operand of this group for a mode and the operand bytes, if the group has the mode. -/
def LdxOperand.ofMode (m : Mode) (b1 b2 : Byte) : Option LdxOperand :=
  match m with
  | .imm => some (.imm b1)
  | .zp0 => some (.zp0 b1)
  | .zpy => some (.zpy b1)
  | .abs => some (.abs (mkWord b2 b1))
  | .aby => some (.aby (mkWord b2 b1))
  | _ => none

/-- The operand of this group for a mode and the operand bytes, if the group has the mode. -/
def LdyOperand.ofMode (m : Mode) (b1 b2 : Byte) : Option LdyOperand :=
  match m with
  | .imm => some (.imm b1)
  | .zp0 => some (.zp0 b1)
  | .zpx => some (.zpx b1)
  | .abs => some (.abs (mkWord b2 b1))
  | .abx => some (.abx (mkWord b2 b1))
  | _ => none

/-- The operand of this group for a mode and the operand bytes, if the group has the mode. -/
def StxOperand.ofMode (m : Mode) (b1 b2 : Byte) : Option StxOperand :=
  match m with
  | .zp0 => some (.zp0 b1)
  | .zpy => some (.zpy b1)
  | .abs => some (.abs (mkWord b2 b1))
  | _ => none

/-- The operand of this group for a mode and the operand bytes, if the group has the mode. -/
def StyOperand.ofMode (m : Mode) (b1 b2 : Byte) : Option StyOperand :=
  match m with
  | .zp0 => some (.zp0 b1)
  | .zpx => some (.zpx b1)
  | .abs => some (.abs (mkWord b2 b1))
  | _ => none

/-- The operand of this group for a mode and the operand bytes, if the group has the mode. -/
def BitOperand.ofMode (m : Mode) (b1 b2 : Byte) : Option BitOperand :=
  match m with
  | .zp0 => some (.zp0 b1)
  | .abs => some (.abs (mkWord b2 b1))
  | _ => none

/-- The operand of this group for a mode and the operand bytes, if the group has the mode. -/
def CpxOperand.ofMode (m : Mode) (b1 b2 : Byte) : Option CpxOperand :=
  match m with
  | .imm => some (.imm b1)
  | .zp0 => some (.zp0 b1)
  | .abs => some (.abs (mkWord b2 b1))
  | _ => none

/-- The operand of this group for a mode and the operand bytes, if the group has the mode. -/
def RmwOperand.ofMode (m : Mode) (b1 b2 : Byte) : Option RmwOperand :=
  match m with
  | .zp0 => some (.zp0 b1)
  | .zpx => some (.zpx b1)
  | .abs => some (.abs (mkWord b2 b1))
  | .abx => some (.abx (mkWord b2 b1))
  | _ => none

/-- The shift operand for a mode and the operand bytes, if the shifts have the mode. -/
def ShiftOperand.ofMode (m : Mode) (b1 b2 : Byte) : Option ShiftOperand :=
  match m with
  | .acc => some .acc
  | m => (RmwOperand.ofMode m b1 b2).map ShiftOperand.mem

/-- The jump operand for a mode and the operand bytes, if JMP has the mode. -/
def JmpOperand.ofMode (m : Mode) (b1 b2 : Byte) : Option JmpOperand :=
  match m with
  | .abs => some (.abs (mkWord b2 b1))
  | .ind => some (.ind (mkWord b2 b1))
  | _ => none

/-- The instruction of a table entry, its opcode byte and two operand bytes (those the mode does not
use are ignored). An entry that names a mode its mnemonic does not have would give `ill`; the table
has none (Laws/Decode.lean, `build_mnemonic`). -/
def build (e : Entry) (op b1 b2 : Byte) : Instr :=
  match e.mnemonic with
  | .lda => ((AluOperand.ofMode e.mode b1 b2).map Instr.lda).getD (.ill op)
  | .ldx => ((LdxOperand.ofMode e.mode b1 b2).map Instr.ldx).getD (.ill op)
  | .ldy => ((LdyOperand.ofMode e.mode b1 b2).map Instr.ldy).getD (.ill op)
  | .sta => ((StaOperand.ofMode e.mode b1 b2).map Instr.sta).getD (.ill op)
  | .stx => ((StxOperand.ofMode e.mode b1 b2).map Instr.stx).getD (.ill op)
  | .sty => ((StyOperand.ofMode e.mode b1 b2).map Instr.sty).getD (.ill op)
  | .tax => .tax
  | .tay => .tay
  | .txa => .txa
  | .tya => .tya
  | .tsx => .tsx
  | .txs => .txs
  | .adc => ((AluOperand.ofMode e.mode b1 b2).map Instr.adc).getD (.ill op)
  | .sbc => ((AluOperand.ofMode e.mode b1 b2).map Instr.sbc).getD (.ill op)
  | .and => ((AluOperand.ofMode e.mode b1 b2).map Instr.and).getD (.ill op)
  | .ora => ((AluOperand.ofMode e.mode b1 b2).map Instr.ora).getD (.ill op)
  | .eor => ((AluOperand.ofMode e.mode b1 b2).map Instr.eor).getD (.ill op)
  | .bit => ((BitOperand.ofMode e.mode b1 b2).map Instr.bit).getD (.ill op)
  | .cmp => ((AluOperand.ofMode e.mode b1 b2).map Instr.cmp).getD (.ill op)
  | .cpx => ((CpxOperand.ofMode e.mode b1 b2).map Instr.cpx).getD (.ill op)
  | .cpy => ((CpxOperand.ofMode e.mode b1 b2).map Instr.cpy).getD (.ill op)
  | .inc => ((RmwOperand.ofMode e.mode b1 b2).map Instr.inc).getD (.ill op)
  | .dec => ((RmwOperand.ofMode e.mode b1 b2).map Instr.dec).getD (.ill op)
  | .inx => .inx
  | .iny => .iny
  | .dex => .dex
  | .dey => .dey
  | .asl => ((ShiftOperand.ofMode e.mode b1 b2).map Instr.asl).getD (.ill op)
  | .lsr => ((ShiftOperand.ofMode e.mode b1 b2).map Instr.lsr).getD (.ill op)
  | .rol => ((ShiftOperand.ofMode e.mode b1 b2).map Instr.rol).getD (.ill op)
  | .ror => ((ShiftOperand.ofMode e.mode b1 b2).map Instr.ror).getD (.ill op)
  | .bcc => .bcc b1
  | .bcs => .bcs b1
  | .beq => .beq b1
  | .bne => .bne b1
  | .bmi => .bmi b1
  | .bpl => .bpl b1
  | .bvc => .bvc b1
  | .bvs => .bvs b1
  | .jmp => ((JmpOperand.ofMode e.mode b1 b2).map Instr.jmp).getD (.ill op)
  | .jsr => .jsr (mkWord b2 b1)
  | .rts => .rts
  | .pha => .pha
  | .php => .php
  | .pla => .pla
  | .plp => .plp
  | .clc => .clc
  | .sec => .sec
  | .cli => .cli
  | .sei => .sei
  | .cld => .cld
  | .sed => .sed
  | .clv => .clv
  | .nop => .nop
  | .brk => .brk
  | .rti => .rti
  | .ill => .ill op

/-- The instruction that an opcode byte and two operand bytes begin: total, since every table slot is
populated (spec 30_encoding.md R82). -/
def decodeBytes (op b1 b2 : Byte) : Instr := build (entry op) op b1 b2

/-- Why a list of bytes begins no whole instruction. -/
inductive DecodeError where
  /-- There is no opcode byte. -/
  | noBytes
  /-- The opcode's mode needs more operand bytes than there are. -/
  | truncated (op : Byte)
  deriving DecidableEq, Repr

/-- Decode the instruction at the head of a list of bytes and give it with the bytes after it. Every
opcode byte decodes (spec 30_encoding.md R82); only missing bytes are rejected, by name. -/
def decode : List Byte → Except DecodeError (Instr × List Byte)
  | [] => .error .noBytes
  | op :: rest =>
    match (entry op).mode.operandBytes, rest with
    | 0, rest => .ok (decodeBytes op 0 0, rest)
    | 1, b1 :: rest => .ok (decodeBytes op b1 0, rest)
    | 2, b1 :: b2 :: rest => .ok (decodeBytes op b1 b2, rest)
    | _, _ => .error (.truncated op)

/-- What the decoder reads from an instruction whose bits are `w`, byte k at bits 8k+7..8k, the bits
from `nbits` up being zero (the host's numbering of spec/opcode_table.json). -/
def decodeTableWord (nbits w : Nat) : Option Instr :=
  let v := w % 2 ^ nbits
  match decode [BitVec.ofNat 8 v, BitVec.ofNat 8 (v / 256), BitVec.ofNat 8 (v / 65536)] with
  | .ok (i, _) => some i
  | .error _ => none

/-! ### The encoder -/

/-- The mnemonic of an instruction. -/
def Instr.mnemonic : Instr → Mnemonic
  | .lda _ => .lda
  | .ldx _ => .ldx
  | .ldy _ => .ldy
  | .sta _ => .sta
  | .stx _ => .stx
  | .sty _ => .sty
  | .tax => .tax
  | .tay => .tay
  | .txa => .txa
  | .tya => .tya
  | .tsx => .tsx
  | .txs => .txs
  | .adc _ => .adc
  | .sbc _ => .sbc
  | .and _ => .and
  | .ora _ => .ora
  | .eor _ => .eor
  | .bit _ => .bit
  | .cmp _ => .cmp
  | .cpx _ => .cpx
  | .cpy _ => .cpy
  | .inc _ => .inc
  | .dec _ => .dec
  | .inx => .inx
  | .iny => .iny
  | .dex => .dex
  | .dey => .dey
  | .asl _ => .asl
  | .lsr _ => .lsr
  | .rol _ => .rol
  | .ror _ => .ror
  | .bcc _ => .bcc
  | .bcs _ => .bcs
  | .beq _ => .beq
  | .bne _ => .bne
  | .bmi _ => .bmi
  | .bpl _ => .bpl
  | .bvc _ => .bvc
  | .bvs _ => .bvs
  | .jmp _ => .jmp
  | .jsr _ => .jsr
  | .rts => .rts
  | .pha => .pha
  | .php => .php
  | .pla => .pla
  | .plp => .plp
  | .clc => .clc
  | .sec => .sec
  | .cli => .cli
  | .sei => .sei
  | .cld => .cld
  | .sed => .sed
  | .clv => .clv
  | .nop => .nop
  | .brk => .brk
  | .rti => .rti
  | .ill _ => .ill

/-- The addressing mode of an instruction (spec 30_encoding.md R81). -/
def Instr.mode : Instr → Mode
  | .lda o => o.operand.mode
  | .ldx o => o.operand.mode
  | .ldy o => o.operand.mode
  | .sta o => o.operand.mode
  | .stx o => o.operand.mode
  | .sty o => o.operand.mode
  | .tax => .imp
  | .tay => .imp
  | .txa => .imp
  | .tya => .imp
  | .tsx => .imp
  | .txs => .imp
  | .adc o => o.operand.mode
  | .sbc o => o.operand.mode
  | .and o => o.operand.mode
  | .ora o => o.operand.mode
  | .eor o => o.operand.mode
  | .bit o => o.operand.mode
  | .cmp o => o.operand.mode
  | .cpx o => o.operand.mode
  | .cpy o => o.operand.mode
  | .inc o => o.operand.mode
  | .dec o => o.operand.mode
  | .inx => .imp
  | .iny => .imp
  | .dex => .imp
  | .dey => .imp
  | .asl o => o.mode
  | .lsr o => o.mode
  | .rol o => o.mode
  | .ror o => o.mode
  | .bcc _ => .rel
  | .bcs _ => .rel
  | .beq _ => .rel
  | .bne _ => .rel
  | .bmi _ => .rel
  | .bpl _ => .rel
  | .bvc _ => .rel
  | .bvs _ => .rel
  | .jmp (.abs _) => .abs
  | .jmp (.ind _) => .ind
  | .jsr _ => .abs
  | .rts => .imp
  | .pha => .imp
  | .php => .imp
  | .pla => .imp
  | .plp => .imp
  | .clc => .imp
  | .sec => .imp
  | .cli => .imp
  | .sei => .imp
  | .cld => .imp
  | .sed => .imp
  | .clv => .imp
  | .nop => .imp
  | .brk => .imp
  | .rti => .imp
  | .ill _ => .imp

/-- One of the values given, by the mode of the operand. -/
def AluOperand.select (o : AluOperand) (vimm vzp0 vzpx vabs vabx vaby vizx vizy : Byte) : Byte :=
  match o with
  | .imm _ => vimm
  | .zp0 _ => vzp0
  | .zpx _ => vzpx
  | .abs _ => vabs
  | .abx _ => vabx
  | .aby _ => vaby
  | .izx _ => vizx
  | .izy _ => vizy

/-- One of the values given, by the mode of the operand. -/
def StaOperand.select (o : StaOperand) (vzp0 vzpx vabs vabx vaby vizx vizy : Byte) : Byte :=
  match o with
  | .zp0 _ => vzp0
  | .zpx _ => vzpx
  | .abs _ => vabs
  | .abx _ => vabx
  | .aby _ => vaby
  | .izx _ => vizx
  | .izy _ => vizy

/-- One of the values given, by the mode of the operand. -/
def LdxOperand.select (o : LdxOperand) (vimm vzp0 vzpy vabs vaby : Byte) : Byte :=
  match o with
  | .imm _ => vimm
  | .zp0 _ => vzp0
  | .zpy _ => vzpy
  | .abs _ => vabs
  | .aby _ => vaby

/-- One of the values given, by the mode of the operand. -/
def LdyOperand.select (o : LdyOperand) (vimm vzp0 vzpx vabs vabx : Byte) : Byte :=
  match o with
  | .imm _ => vimm
  | .zp0 _ => vzp0
  | .zpx _ => vzpx
  | .abs _ => vabs
  | .abx _ => vabx

/-- One of the values given, by the mode of the operand. -/
def StxOperand.select (o : StxOperand) (vzp0 vzpy vabs : Byte) : Byte :=
  match o with
  | .zp0 _ => vzp0
  | .zpy _ => vzpy
  | .abs _ => vabs

/-- One of the values given, by the mode of the operand. -/
def StyOperand.select (o : StyOperand) (vzp0 vzpx vabs : Byte) : Byte :=
  match o with
  | .zp0 _ => vzp0
  | .zpx _ => vzpx
  | .abs _ => vabs

/-- One of the values given, by the mode of the operand. -/
def BitOperand.select (o : BitOperand) (vzp0 vabs : Byte) : Byte :=
  match o with
  | .zp0 _ => vzp0
  | .abs _ => vabs

/-- One of the values given, by the mode of the operand. -/
def CpxOperand.select (o : CpxOperand) (vimm vzp0 vabs : Byte) : Byte :=
  match o with
  | .imm _ => vimm
  | .zp0 _ => vzp0
  | .abs _ => vabs

/-- One of the values given, by the mode of the operand. -/
def RmwOperand.select (o : RmwOperand) (vzp0 vzpx vabs vabx : Byte) : Byte :=
  match o with
  | .zp0 _ => vzp0
  | .zpx _ => vzpx
  | .abs _ => vabs
  | .abx _ => vabx

/-- The opcode byte of an instruction, from the forms listed by mnemonic (the second table of
spec 30_encoding.md R85). -/
def Instr.opcode : Instr → Byte
  | .lda o => o.select 0xA9#8 0xA5#8 0xB5#8 0xAD#8 0xBD#8 0xB9#8 0xA1#8 0xB1#8
  | .ldx o => o.select 0xA2#8 0xA6#8 0xB6#8 0xAE#8 0xBE#8
  | .ldy o => o.select 0xA0#8 0xA4#8 0xB4#8 0xAC#8 0xBC#8
  | .sta o => o.select 0x85#8 0x95#8 0x8D#8 0x9D#8 0x99#8 0x81#8 0x91#8
  | .stx o => o.select 0x86#8 0x96#8 0x8E#8
  | .sty o => o.select 0x84#8 0x94#8 0x8C#8
  | .tax => 0xAA#8
  | .tay => 0xA8#8
  | .txa => 0x8A#8
  | .tya => 0x98#8
  | .tsx => 0xBA#8
  | .txs => 0x9A#8
  | .adc o => o.select 0x69#8 0x65#8 0x75#8 0x6D#8 0x7D#8 0x79#8 0x61#8 0x71#8
  | .sbc o => o.select 0xE9#8 0xE5#8 0xF5#8 0xED#8 0xFD#8 0xF9#8 0xE1#8 0xF1#8
  | .and o => o.select 0x29#8 0x25#8 0x35#8 0x2D#8 0x3D#8 0x39#8 0x21#8 0x31#8
  | .ora o => o.select 0x09#8 0x05#8 0x15#8 0x0D#8 0x1D#8 0x19#8 0x01#8 0x11#8
  | .eor o => o.select 0x49#8 0x45#8 0x55#8 0x4D#8 0x5D#8 0x59#8 0x41#8 0x51#8
  | .bit o => o.select 0x24#8 0x2C#8
  | .cmp o => o.select 0xC9#8 0xC5#8 0xD5#8 0xCD#8 0xDD#8 0xD9#8 0xC1#8 0xD1#8
  | .cpx o => o.select 0xE0#8 0xE4#8 0xEC#8
  | .cpy o => o.select 0xC0#8 0xC4#8 0xCC#8
  | .inc o => o.select 0xE6#8 0xF6#8 0xEE#8 0xFE#8
  | .dec o => o.select 0xC6#8 0xD6#8 0xCE#8 0xDE#8
  | .inx => 0xE8#8
  | .iny => 0xC8#8
  | .dex => 0xCA#8
  | .dey => 0x88#8
  | .asl .acc => 0x0A#8
  | .asl (.mem o) => o.select 0x06#8 0x16#8 0x0E#8 0x1E#8
  | .lsr .acc => 0x4A#8
  | .lsr (.mem o) => o.select 0x46#8 0x56#8 0x4E#8 0x5E#8
  | .rol .acc => 0x2A#8
  | .rol (.mem o) => o.select 0x26#8 0x36#8 0x2E#8 0x3E#8
  | .ror .acc => 0x6A#8
  | .ror (.mem o) => o.select 0x66#8 0x76#8 0x6E#8 0x7E#8
  | .bcc _ => 0x90#8
  | .bcs _ => 0xB0#8
  | .beq _ => 0xF0#8
  | .bne _ => 0xD0#8
  | .bmi _ => 0x30#8
  | .bpl _ => 0x10#8
  | .bvc _ => 0x50#8
  | .bvs _ => 0x70#8
  | .jmp (.abs _) => 0x4C#8
  | .jmp (.ind _) => 0x6C#8
  | .jsr _ => 0x20#8
  | .rts => 0x60#8
  | .pha => 0x48#8
  | .php => 0x08#8
  | .pla => 0x68#8
  | .plp => 0x28#8
  | .clc => 0x18#8
  | .sec => 0x38#8
  | .cli => 0x58#8
  | .sei => 0x78#8
  | .cld => 0xD8#8
  | .sed => 0xF8#8
  | .clv => 0xB8#8
  | .nop => 0xEA#8
  | .brk => 0x00#8
  | .rti => 0x40#8
  | .ill op => op

/-- The operand bytes of an instruction, in the order they follow the opcode (spec 30_encoding.md R81
to R84). -/
def Instr.operandBytes : Instr → List Byte
  | .lda o => o.operand.bytes
  | .ldx o => o.operand.bytes
  | .ldy o => o.operand.bytes
  | .sta o => o.operand.bytes
  | .stx o => o.operand.bytes
  | .sty o => o.operand.bytes
  | .tax => []
  | .tay => []
  | .txa => []
  | .tya => []
  | .tsx => []
  | .txs => []
  | .adc o => o.operand.bytes
  | .sbc o => o.operand.bytes
  | .and o => o.operand.bytes
  | .ora o => o.operand.bytes
  | .eor o => o.operand.bytes
  | .bit o => o.operand.bytes
  | .cmp o => o.operand.bytes
  | .cpx o => o.operand.bytes
  | .cpy o => o.operand.bytes
  | .inc o => o.operand.bytes
  | .dec o => o.operand.bytes
  | .inx => []
  | .iny => []
  | .dex => []
  | .dey => []
  | .asl o => o.bytes
  | .lsr o => o.bytes
  | .rol o => o.bytes
  | .ror o => o.bytes
  | .bcc d => [d]
  | .bcs d => [d]
  | .beq d => [d]
  | .bne d => [d]
  | .bmi d => [d]
  | .bpl d => [d]
  | .bvc d => [d]
  | .bvs d => [d]
  | .jmp (.abs w) | .jmp (.ind w) => [loByte w, hiByte w]
  | .jsr w => [loByte w, hiByte w]
  | .rts => []
  | .pha => []
  | .php => []
  | .pla => []
  | .plp => []
  | .clc => []
  | .sec => []
  | .cli => []
  | .sei => []
  | .cld => []
  | .sed => []
  | .clv => []
  | .nop => []
  | .brk => []
  | .rti => []
  | .ill _ => []

/-- The bytes of an instruction: the opcode, then the operand bytes (spec 30_encoding.md R80). -/
def encode (i : Instr) : List Byte := i.opcode :: i.operandBytes

end Sys2Proof
end

