-- ==== Sys2Proof/Machine/Memory.lean ====
section
/-! DEFINITION. Byte arrays in one canonical sparse form: the cells of a list are in strictly rising
order of address and none holds 0x00, which is what an unlisted address reads as (log 3, log 4). RAM,
program ROM and the graphics memory are held so. -/

namespace Sys2Proof.Machine

/-- A byte array: the cells that do not hold `Memory.fill`. -/
abbrev Memory := List Host.Cell

/-- What an unlisted address reads as: DESIGN CHOICE 0x00 (log 3). -/
def Memory.fill : Byte := 0x00#8

/-- The byte at an address. -/
def Memory.read : Memory → Nat → Byte
  | [], _ => Memory.fill
  | c :: m, a => if c.1 = a then c.2 else Memory.read m a

/-- The memory without the cell of an address. -/
def Memory.unlist (m : Memory) (a : Nat) : Memory := m.filter fun c => c.1 != a

/-- The memory with a cell put in its place. -/
def Memory.place : Memory → Nat → Byte → Memory
  | [], a, v => [(a, v)]
  | c :: m, a, v => if a < c.1 then (a, v) :: c :: m else c :: Memory.place m a v

/-- Store a byte at an address, in the canonical form: storing `Memory.fill` unlists the address. -/
def Memory.write (m : Memory) (a : Nat) (v : Byte) : Memory :=
  if v = Memory.fill then Memory.unlist m a else Memory.place (Memory.unlist m a) a v

/-- The array whose bytes at the addresses below `n` are given. -/
def Memory.ofBytes (f : Nat → Byte) : Nat → Memory
  | 0 => []
  | n + 1 => (Memory.ofBytes f n).write n (f n)

/-- The cells are in strictly rising order from `lo` up and none holds `Memory.fill`. -/
def Memory.wfFrom : Nat → Memory → Bool
  | _, [] => true
  | lo, c :: m => decide (lo ≤ c.1) && (c.2 != Memory.fill) && Memory.wfFrom (c.1 + 1) m

/-- The canonical form. -/
def Memory.wf (m : Memory) : Bool := m.wfFrom 0

/-- Every listed address is below `n`: the array has `n` bytes. -/
def Memory.below (m : Memory) (n : Nat) : Bool := m.all fun c => decide (c.1 < n)

end Sys2Proof.Machine
end

