-- ==== Sys2Proof/Machine/State.lean ====
section
/-! DEFINITION. The state of the core as plain data (spec 10_state.md), the state right after reset,
and the reasons a step can stop. -/

namespace Sys2Proof.Machine

/-- The mirroring mode of a cartridge: one of four values the spec does not name, read by nothing in
the core (spec 20_memory.md R63; log 12). -/
inductive Mirroring where
  | value0 | value1 | value2 | value3
  deriving DecidableEq, Repr

/-- A cartridge record (spec 10_state.md R25). The arrays are held sparsely (log 4). -/
structure Cartridge where
  /-- The program-ROM bytes, `prgBanks * 16384` of them. -/
  prg : Memory
  /-- The graphics-ROM bytes, `chrBanks * 8192` of them, or 8,192 bytes of graphics RAM when
  `chrBanks = 0`. -/
  chr : Memory
  /-- The program-bank count, in units of 16,384 bytes. -/
  prgBanks : Nat
  /-- The graphics-bank count, in units of 8,192 bytes; 0 means graphics RAM. -/
  chrBanks : Nat
  /-- The mapper selector, 0 to 255. -/
  mapperId : Fin 256
  /-- The mirroring mode. -/
  mirroring : Mirroring
  deriving DecidableEq, Repr

/-- A Mapper. One variant is registered, selector 0, "direct-mapped", whose state is exactly its
cartridge record (spec 10_state.md R26, 20_memory.md R56; log 9). -/
inductive Mapper where
  | direct (c : Cartridge)
  deriving DecidableEq, Repr

/-- The state of the core (spec 10_state.md). -/
structure State where
  /-- The open parameters of spec 00_scope.md R3 (the model's own field, log 6). -/
  params : Params
  /-- `A`, the accumulator (R10). -/
  a : Byte
  /-- `X`, index-X (R11). -/
  x : Byte
  /-- `Y`, index-Y (R12). -/
  y : Byte
  /-- `S`, the stack pointer (R13). -/
  sp : Byte
  /-- `P`, the status byte, bits 0 to 7: C Z I D B U V N (R15, R16). -/
  p : Byte
  /-- `PC`, the program counter (R14). -/
  pc : Word
  /-- `cycles`, the remaining-cycle counter (R20). -/
  cycles : Nat
  /-- `ram`, the 2,048 bytes of the Bus (R21). -/
  ram : Memory
  /-- `mclk`, the master-clock counter (R22). -/
  mclk : Nat
  /-- `mapper`, the slot that is empty or holds one Mapper (R23). -/
  mapper : Option Mapper
  /-- `connected`: `power()` has been performed (R24). -/
  connected : Bool
  /-- `faulted`: the model-level mark of a bus fault (R27). -/
  faulted : Bool
  deriving DecidableEq, Repr

/-- Why the core stops with a fault. -/
inductive Fault where
  /-- `BusFault(a)`: an access to the disabled region 0x4018 to 0x401F. Raised by any read or write of
  the Bus, instruction fetches included (spec 20_memory.md R48, 60_exceptions.md R236). Safe: the
  spec makes it final and says nothing of the state afterwards (log 8). -/
  | busFault (a : Word)
  deriving DecidableEq, Repr

/-- Why an operation is refused: it is one the spec gives no meaning (spec 60_exceptions.md R238). -/
inductive Refusal where
  /-- The instruction has no meaning in the model. Raised by no arm of `exec`. Safe. -/
  | notModelled (mnemonic : String)
  /-- An operation before `power()` that reads the CPU (spec 10_state.md R30). Raised by `clock`,
  `step` and the host operations. Safe. -/
  | notPowered
  /-- An access to cartridge space, or `power()`, with an empty Mapper slot (spec 60_exceptions.md R239).
  Raised by the Bus, `clock`, `step` and the host operations. Safe. -/
  | noMapper
  /-- Any operation once `faulted` is set (spec 10_state.md R27, 60_exceptions.md R236). Raised by
  `clock`, `step` and the host operations. Safe. -/
  | coreFaulted
  /-- `insert` when a Mapper is installed or after `power()` (spec 20_memory.md R57). Raised by the host
  operation. Safe. -/
  | insertNotAllowed
  /-- `insert` of a record that violates the length conditions, or has no program bank with selector 0
  (spec 20_memory.md R57; log 9). Raised by the host operation. Safe. -/
  | recordNotWellFormed
  /-- `graphicsRead` or `graphicsWrite` above 0x1FFF (spec 20_memory.md R61, R62). Raised by the host
  operations. Safe. -/
  | graphicsOutOfRange
  /-- An `nmi()` that follows an `irq()` between the same two CPU clocks, an order in which the host must
  not present them (spec 60_exceptions.md R229; log 16). Raised by a session, `hostRun`. Safe. -/
  | nmiAfterIrq
  deriving DecidableEq, Repr

/-- What an operation on the core answers. -/
abbrev Result (α : Type) := Host.Outcome α Fault Refusal

/-- A cartridge with one program bank, graphics RAM, and every byte 0x00: the cartridge of
`State.reset`, DESIGN CHOICE (log 2). -/
def Cartridge.blank : Cartridge where
  prg := []
  chr := []
  prgBanks := 1
  chrBanks := 0
  mapperId := 0
  mirroring := .value0

/-- The core when the Bus is built (spec 10_state.md R30, table of section 9): RAM holds `ramInit`, the
slot is empty, nothing is connected. The CPU registers hold no value the spec names; the ones here are
DESIGN CHOICE and no operation reads them (log 5). -/
def State.built (params : Params) (ramInit : Memory) : State where
  params := params
  a := 0x00#8
  x := 0x00#8
  y := 0x00#8
  sp := 0x00#8
  p := 0x20#8
  pc := 0x0000#16
  cycles := 0
  ram := ramInit
  mclk := 0
  mapper := none
  connected := false
  faulted := false

/-- The core right after reset (spec 10_state.md R29, 70_reset_and_hazards.md R260 to R262), with the
blank cartridge in the slot, whose reset vector is 0x0000, and RAM with nothing listed (log 2, log 3).
Tests/Slice0.lean shows that `power()` reaches it from `State.built` (`test_reset_is_power_of_blank`). -/
def State.reset : State where
  params := Params.default
  a := 0x00#8
  x := 0x00#8
  y := 0x00#8
  sp := 0xFD#8
  p := 0x20#8
  pc := 0x0000#16
  cycles := 8
  ram := []
  mclk := 0
  mapper := some (.direct Cartridge.blank)
  connected := true
  faulted := false

end Sys2Proof.Machine
end

