-- ==== Sys2Proof/Machine/Flags.lean ====
section
/-! DEFINITION. The status byte and every flag computation of the spec: `SetZN` (40_step_and_addressing.md
R118), the adder (42_arithmetic_logic.md R150), the compare (R157), BIT (R156) and the four shifts
(43_shift_rotate.md R171 to R174), as functions on bytes. -/

namespace Sys2Proof.Machine

/-- The eight flags of P (spec 10_state.md R16). -/
inductive Flag where
  | c | z | i | d | b | u | v | n
  deriving DecidableEq, Repr

/-- The bit of P that a flag is (spec 10_state.md R16). -/
def Flag.position : Flag → Nat
  | .c => 0
  | .z => 1
  | .i => 2
  | .d => 3
  | .b => 4
  | .u => 5
  | .v => 6
  | .n => 7

/-- The value of a flag in a status byte. -/
def getFlag (p : Byte) (f : Flag) : Bool := p.getLsbD f.position

/-- The status byte with one flag written (`P.f <- c`, spec 00_scope.md section 6). -/
def putFlag (p : Byte) (f : Flag) (v : Bool) : Byte :=
  if v then p ||| (1#8 <<< f.position) else p &&& ~~~(1#8 <<< f.position)

/-- `SetZN(v)`: Z is set iff the value is zero, N iff its bit 7 is set (spec 40_step_and_addressing.md
R118). -/
def withZN (p v : Byte) : Byte := putFlag (putFlag p .z (v == 0#8)) .n (v.getLsbD 7)

/-- The integer sum of the adder, A + M + carry, 0 to 511 (spec 42_arithmetic_logic.md R150). -/
def addSum (a m : Byte) (carry : Bool) : Nat := a.toNat + m.toNat + carry.toNat

/-- The new accumulator of the adder, the sum truncated to 8 bits (spec R150). -/
def addResult (a m : Byte) (carry : Bool) : Byte := BitVec.ofNat 8 (addSum a m carry)

/-- The overflow formula of the adder, "`~(A ^ M) & (A ^ result) & 0x80 != 0`" (spec R150). -/
def addOverflow (a m : Byte) (carry : Bool) : Bool :=
  (~~~(a ^^^ m) &&& (a ^^^ addResult a m carry) &&& 0x80#8) != 0#8

/-- The status byte after the adder: C, V, then Z and N of the result (spec R150). D is not
consulted. -/
def addStatus (p a m : Byte) : Byte :=
  let carry := getFlag p .c
  let p := putFlag p .c (decide (addSum a m carry > 255))
  let p := putFlag p .v (addOverflow a m carry)
  withZN p (addResult a m carry)

/-- The status byte after `Compare(R, M)`: C iff R >= M unsigned, Z iff equal, N from bit 7 of the
difference (spec R157). -/
def compareStatus (p r m : Byte) : Byte :=
  let p := putFlag p .c (decide (m.toNat ≤ r.toNat))
  let p := putFlag p .z (r == m)
  putFlag p .n ((r - m).getLsbD 7)

/-- The status byte after BIT: Z from the and, N and V from bits 7 and 6 of the operand (spec R156). -/
def bitTestStatus (p a m : Byte) : Byte :=
  let p := putFlag p .z ((a &&& m) == 0#8)
  let p := putFlag p .n (m.getLsbD 7)
  putFlag p .v (m.getLsbD 6)

/-- ASL of a byte: the result and the bit shifted out (spec 43_shift_rotate.md R171). -/
def shiftLeft (v : Byte) (_carry : Bool) : Byte × Bool := (v <<< 1, v.getLsbD 7)

/-- LSR of a byte (spec R172). -/
def shiftRight (v : Byte) (_carry : Bool) : Byte × Bool := (v >>> 1, v.getLsbD 0)

/-- ROL of a byte: the prior carry enters bit 0 (spec R173). -/
def rotateLeft (v : Byte) (carry : Bool) : Byte × Bool :=
  ((v <<< 1) ||| (if carry then 0x01#8 else 0x00#8), v.getLsbD 7)

/-- ROR of a byte: the prior carry enters bit 7 (spec R174). -/
def rotateRight (v : Byte) (carry : Bool) : Byte × Bool :=
  ((v >>> 1) ||| (if carry then 0x80#8 else 0x00#8), v.getLsbD 0)

/-- The status byte after a shift with result `r` and bit shifted out `c` (spec R170). -/
def shiftStatus (p r : Byte) (c : Bool) : Byte := withZN (putFlag p .c c) r

/-- The status byte that PHP and BRK push: Break and Unused forced to 1 (spec 45_stack_flags_system.md
R201, R212). -/
def statusPushedByInstruction (p : Byte) : Byte := p ||| 0x30#8

/-- The status byte that `irq()` and `nmi()` push: Break cleared, Unused set (spec 60_exceptions.md
R222, R223). -/
def statusPushedByInterrupt (p : Byte) : Byte := (p &&& 0xEF#8) ||| 0x20#8

/-- The status byte after a whole byte is pulled into P: Unused reads 1 (spec 10_state.md R17, R203,
R213). -/
def statusPulled (v : Byte) : Byte := v ||| 0x20#8

end Sys2Proof.Machine
end

