-- ==== Sys2Proof/Machine/Ops.lean ====
section
/-! DEFINITION. The named operations over memory and registers: one update for each field of the state,
the Mapper (spec 20_memory.md sections 5 and 6), the Bus (sections 2 and 3), the stack
(40_step_and_addressing.md R119, R120), cycle accounting (R103), taking an interrupt and returning from
one (60_exceptions.md, 45_stack_flags_system.md R213), and the reset sequence
(70_reset_and_hazards.md R262). -/

namespace Sys2Proof.Machine

/-- Go on with the value of an operation, or stop as it stopped. -/
def andThen {α β : Type} (x : Result α) (f : α → Result β) : Result β :=
  match x with
  | .next v => f v
  | .fault r => .fault r
  | .refused r => .refused r

/-! ### One update for each field of the state -/

/-- `A <- v`. -/
def State.setA (s : State) (v : Byte) : State := { s with a := v }
/-- `X <- v`. -/
def State.setX (s : State) (v : Byte) : State := { s with x := v }
/-- `Y <- v`. -/
def State.setY (s : State) (v : Byte) : State := { s with y := v }
/-- `S <- v`. -/
def State.setSp (s : State) (v : Byte) : State := { s with sp := v }
/-- `P <- v`, a whole byte. -/
def State.setP (s : State) (v : Byte) : State := { s with p := v }
/-- `PC <- v`. -/
def State.setPc (s : State) (v : Word) : State := { s with pc := v }
/-- `cycles <- n`. -/
def State.setCycles (s : State) (n : Nat) : State := { s with cycles := n }
/-- `ram <- m`. -/
def State.setRam (s : State) (m : Memory) : State := { s with ram := m }
/-- `mclk <- n`. -/
def State.setMclk (s : State) (n : Nat) : State := { s with mclk := n }
/-- `mapper <- m`. -/
def State.setMapper (s : State) (m : Option Mapper) : State := { s with mapper := m }
/-- `connected <- b`. -/
def State.setConnected (s : State) (b : Bool) : State := { s with connected := b }
/-- `faulted <- b`. -/
def State.setFaulted (s : State) (b : Bool) : State := { s with faulted := b }

/-- The value of a flag of P. -/
def State.flag (s : State) (f : Flag) : Bool := getFlag s.p f

/-- `P.f <- v`. -/
def State.putFlag (s : State) (f : Flag) (v : Bool) : State := s.setP (Machine.putFlag s.p f v)

/-- `SetZN(v)` (spec 40_step_and_addressing.md R118). -/
def State.withZN (s : State) (v : Byte) : State := s.setP (Machine.withZN s.p v)

/-! ### The Mapper (spec 20_memory.md sections 5 and 6) -/

/-- The length in bytes of a record's graphics memory (spec 10_state.md R25, 00_scope.md R3). -/
def Cartridge.chrSize (c : Cartridge) : Nat := if c.chrBanks = 0 then 8192 else c.chrBanks * 8192

/-- The length conditions a record must meet, and the canonical form of its arrays (spec 10_state.md
R25; log 4). -/
def Cartridge.wf (c : Cartridge) : Bool :=
  c.prg.wf && c.prg.below (c.prgBanks * 16384) && c.chr.wf && c.chr.below c.chrSize

/-- The Mapper constructor of a variant: what an entry of MAPPER_REGISTRY maps a selector to (spec
20_memory.md R56). -/
def Mapper.ofVariant : MapperVariant → Cartridge → Mapper
  | .direct, c => .direct c

/-- The variant that MAPPER_REGISTRY has for a selector, if it has one (spec 20_memory.md R56). -/
def registered (ps : Params) (selector : Fin 256) : Option MapperVariant := ps.registry.lookup selector

/-- The factory, keyed on the record's selector (spec 20_memory.md R56, R57). -/
def Mapper.make (ps : Params) (c : Cartridge) : Option Mapper :=
  (registered ps c.mapperId).map fun v => Mapper.ofVariant v c

/-- The record has no program bank although its Mapper would need one: that of selector 0, whatever is
registered for it (spec 20_memory.md R57), and, as the model's choice, the direct-mapped Mapper under any
selector, since zero banks has no mask (log 9). -/
def Cartridge.lacksProgram (ps : Params) (c : Cartridge) : Bool :=
  c.prgBanks == 0 && (c.mapperId == 0 || registered ps c.mapperId == some .direct)

/-- The cartridge record a Mapper owns (spec 10_state.md R26). -/
def Mapper.cartridge : Mapper → Cartridge
  | .direct c => c

/-- The index into program ROM of a CPU address: masked by 0x3FFF with one program bank, by 0x7FFF with
more (spec 20_memory.md R59). -/
def Cartridge.prgIndex (c : Cartridge) (a : Word) : Nat :=
  if c.prgBanks = 1 then (a &&& 0x3FFF#16).toNat else (a &&& 0x7FFF#16).toNat

/-- `cpuRead(a)` (spec 20_memory.md R59). -/
def Mapper.cpuRead : Mapper → Word → Byte
  | .direct c, a => c.prg.read (c.prgIndex a)

/-- `cpuWrite(a, v)`: Mapper 0 performs no mutation (spec 20_memory.md R60). -/
def Mapper.cpuWrite : Mapper → Word → Byte → Mapper
  | .direct c, _, _ => .direct c

/-- `graphicsRead(a)`, refused above 0x1FFF (spec 20_memory.md R61). -/
def Mapper.graphicsRead : Mapper → Word → Result Byte
  | .direct c, a => if a.toNat ≤ 0x1FFF then .next (c.chr.read a.toNat) else .refused .graphicsOutOfRange

/-- `graphicsWrite(a, v)`: writes graphics RAM, changes nothing when the cartridge has graphics ROM,
refused above 0x1FFF (spec 20_memory.md R62; R250 for the range with graphics ROM). -/
def Mapper.graphicsWrite : Mapper → Word → Byte → Result Mapper
  | .direct c, a, v =>
    if a.toNat ≤ 0x1FFF then
      if c.chrBanks = 0 then .next (.direct { c with chr := c.chr.write a.toNat v }) else .next (.direct c)
    else .refused .graphicsOutOfRange

/-! ### The Bus (spec 20_memory.md sections 2 and 3) -/

/-- The five regions of the CPU address space (spec 20_memory.md R41). -/
inductive Region where
  | ram | graphicsStub | audioStub | disabled | cartridge
  deriving DecidableEq, Repr

/-- The decode of an address, which depends on the address alone (spec 20_memory.md R41). -/
def region (a : Word) : Region :=
  if a.toNat ≤ 0x1FFF then .ram
  else if a.toNat ≤ 0x3FFF then .graphicsStub
  else if a.toNat ≤ 0x4017 then .audioStub
  else if a.toNat ≤ 0x401F then .disabled
  else .cartridge

/-- The RAM index of an address, `a & 0x07FF` (spec 20_memory.md R45). -/
def ramIndex (a : Word) : Nat := (a &&& 0x07FF#16).toNat

/-- `MemRead(a, 1)` (spec 20_memory.md R42). It changes no state. -/
def busRead (s : State) (a : Word) : Result Byte :=
  match region a with
  | .ram => .next (s.ram.read (ramIndex a))
  | .graphicsStub => .next 0x00#8
  | .audioStub => .next 0x00#8
  | .disabled => .fault (.busFault a)
  | .cartridge =>
    match s.mapper with
    | none => .refused .noMapper
    | some m => .next (m.cpuRead a)

/-- `MemWrite(a, 1, v)` (spec 20_memory.md R43). -/
def busWrite (s : State) (a : Word) (v : Byte) : Result State :=
  match region a with
  | .ram => .next (s.setRam (s.ram.write (ramIndex a) v))
  | .graphicsStub => .next s
  | .audioStub => .next s
  | .disabled => .fault (.busFault a)
  | .cartridge =>
    match s.mapper with
    | none => .refused .noMapper
    | some m => .next (s.setMapper (some (m.cpuWrite a v)))

/-- `MemRead(a, 2)`: low byte at `a`, high byte at `a + 1` modulo 65,536 (spec 20_memory.md R44). The
first read that stops decides what the word stops with; the precondition of the host's `read16` is tested
before it, in `hostOp` (log 18). -/
def busRead16 (s : State) (a : Word) : Result Word :=
  andThen (busRead s a) fun lo => andThen (busRead s (a + 1)) fun hi => .next (mkWord hi lo)

/-- The byte at an address of page 0, which is RAM, and so is read without passing through the region
decode (spec 20_memory.md R45, R54; log 10). -/
def zeroPageRead (s : State) (a : Byte) : Byte := s.ram.read a.toNat

/-! ### The stack (spec 40_step_and_addressing.md R119, R120) -/

/-- The RAM index of the stack location that a stack pointer names, 0x0100 + S (spec 10_state.md R13;
log 10). -/
def stackIndex (sp : Byte) : Nat := 0x100 + sp.toNat

/-- `Push(v)`: write at 0x0100 + S, then S <- S - 1 modulo 256 (spec 40_step_and_addressing.md R119). -/
def State.push (s : State) (v : Byte) : State :=
  (s.setRam (s.ram.write (stackIndex s.sp) v)).setSp (s.sp - 1)

/-- The byte `Pull()` gives: the one at 0x0100 + (S + 1 modulo 256) (spec 40_step_and_addressing.md
R120). -/
def State.pulled (s : State) : Byte := s.ram.read (stackIndex (s.sp + 1))

/-- The state after `Pull()`: S <- S + 1 modulo 256 (spec 40_step_and_addressing.md R120). -/
def State.pop (s : State) : State := s.setSp (s.sp + 1)

/-! ### Cycle accounting (spec 40_step_and_addressing.md R103) -/

/-- `ILLEGAL_CYCLES(op)`, at least 1, by default 2 (spec 45_stack_flags_system.md R214; log 6). -/
def illegalCycles (ps : Params) (op : Byte) : Nat :=
  match ps.illegalCosts.lookup op with
  | none => 2
  | some n => n + 1

/-- The base cycle cost of an instruction: that of its table entry (spec 30_encoding.md R85, R87). -/
def baseCycles (ps : Params) (i : Instr) : Nat :=
  match (entry i.opcode).cost with
  | .fixed n => n
  | .illegalCycles => illegalCycles ps i.opcode

/-- The page-cross extra cost: 1 when the entry is flagged `page_cross` and the mode crossed a page,
else 0 (spec 40_step_and_addressing.md R103). -/
def pageCrossCycles (i : Instr) (crossed : Bool) : Nat :=
  if (entry i.opcode).extra = .pageCross ∧ crossed = true then 1 else 0

/-- `cycles <- cycles + e.cycles + extra` (spec 40_step_and_addressing.md R101, R103). -/
def State.charge (s : State) (i : Instr) (extra : Nat) : State :=
  s.setCycles (s.cycles + baseCycles s.params i + extra)

/-! ### Interrupts and reset -/

/-- NMI_VECTOR (spec 00_scope.md R3). -/
def nmiVector : Word := 0xFFFA#16

/-- RESET_VECTOR (spec 00_scope.md R3). -/
def resetVector : Word := 0xFFFC#16

/-- IRQ_VECTOR, shared with BRK (spec 00_scope.md R3). -/
def irqVector : Word := 0xFFFE#16

/-- The three pushes of an interrupt: PC bits 15:8, PC bits 7:0, the status byte (spec 60_exceptions.md
R225). -/
def interruptFrame (s : State) (returnPc : Word) (status : Byte) : State :=
  ((s.push (hiByte returnPc)).push (loByte returnPc)).push status

/-- The one interrupt sequence of the core, shared by BRK, `irq()` and `nmi()`: push the return address,
high byte first, then the status byte given, set Interrupt-disable, load PC from the vector (spec
60_exceptions.md R222 to R225, 45_stack_flags_system.md R212). BRK, which sets Interrupt-disable before
it pushes, gives a status byte that shows it. -/
def takeInterrupt (s : State) (vector returnPc : Word) (status : Byte) : Result State :=
  andThen (busRead16 (interruptFrame s returnPc status) vector) fun target =>
    .next (((interruptFrame s returnPc status).putFlag .i true).setPc target)

/-- The return from an interrupt: pull the status byte, then PC low, then PC high (spec
45_stack_flags_system.md R213). -/
def returnFromInterrupt (s : State) : State :=
  (s.pop.pop.pop.setP (statusPulled s.pulled)).setPc (mkWord s.pop.pop.pulled s.pop.pulled)

/-- `irq()`: nothing while Interrupt-disable is set, else the interrupt sequence with the vector 0xFFFE
and 7 cycles (spec 60_exceptions.md R222). -/
def irq (s : State) : Result State :=
  if s.flag .i then .next s
  else andThen (takeInterrupt s irqVector s.pc (statusPushedByInterrupt s.p)) fun t => .next (t.setCycles 7)

/-- `nmi()`: the interrupt sequence whatever Interrupt-disable is, with the vector 0xFFFA and 8 cycles
(spec 60_exceptions.md R223). -/
def nmi (s : State) : Result State :=
  andThen (takeInterrupt s nmiVector s.pc (statusPushedByInterrupt s.p)) fun t => .next (t.setCycles 8)

/-- `Cpu.reset()`, the reset sequence (spec 70_reset_and_hazards.md R262). -/
def cpuReset (s : State) : Result State :=
  andThen (busRead16 s resetVector) fun target =>
    .next ((((((s.setPc target).setP 0x20#8).setSp 0xFD#8).setA 0x00#8).setX 0x00#8).setY 0x00#8 |>.setCycles 8)

/-- `Bus.reset()`: the reset sequence, then the master-clock counter to zero (spec
70_reset_and_hazards.md R261). -/
def busReset (s : State) : Result State := andThen (cpuReset s) fun t => .next (t.setMclk 0)

end Sys2Proof.Machine
end

