-- ==== Sys2Proof/Machine/Operands.lean ====
section
/-! DEFINITION. The addressing modes (spec 40_step_and_addressing.md R105 to R117): what an operand's
address is, whether resolving it crossed a page, the value read through it, and the shapes in which
the instructions use it. Throughout, PC has passed the whole instruction (R101; log 11). -/

namespace Sys2Proof.Machine

/-- What a mode returns: "a resolved address and a page-crossed flag" (spec 40_step_and_addressing.md
section 4). -/
structure Resolved where
  addr : Word
  crossed : Bool
  deriving DecidableEq, Repr

/-- A base address plus an index register, modulo 65,536; crossed iff the high byte changed (spec R104,
R112). -/
def indexed (base : Word) (index : Byte) : Resolved where
  addr := base + zeroExtend16 index
  crossed := page (base + zeroExtend16 index) != page base

/-- The word held by two bytes of page 0, the second at the next address modulo 256 (spec R115, R116). -/
def zeroPagePointer (s : State) (t : Byte) : Word := mkWord (zeroPageRead s (t + 1)) (zeroPageRead s t)

/-- The resolution of a data operand (spec R106, R108 to R113, R115, R116). The address of an
immediate is that of its own byte, the one before PC. -/
def resolve (s : State) : Operand → Resolved
  | .imm _ => ⟨s.pc - 1, false⟩
  | .zp0 b => ⟨zeroExtend16 b, false⟩
  | .zpx b => ⟨zeroExtend16 (b + s.x), false⟩
  | .zpy b => ⟨zeroExtend16 (b + s.y), false⟩
  | .abs w => ⟨w, false⟩
  | .abx w => indexed w s.x
  | .aby w => indexed w s.y
  | .izx b => ⟨zeroPagePointer s (b + s.x), false⟩
  | .izy b => indexed (zeroPagePointer s b) s.y

/-- `M <- Operand(addr)`: one read of the Bus (spec R117). The one read of an immediate byte is the
fetch that read the instruction (spec R106; log 7). -/
def operandValue (s : State) (o : Operand) : Result Byte :=
  match o with
  | .imm b => .next b
  | o => busRead s (resolve s o).addr

/-- The second address an indirect jump reads: on the same page when the pointer's low byte is 0xFF
(spec R114). -/
def pointerHighAddress (ptr : Word) : Word :=
  if loByte ptr = 0xFF#8 then ptr &&& 0xFF00#16 else ptr + 1

/-- The resolved address of a jump (spec R111, R114). -/
def jumpTarget (s : State) : JmpOperand → Result Word
  | .abs w => .next w
  | .ind ptr =>
    andThen (busRead s ptr) fun lo =>
      andThen (busRead s (pointerHighAddress ptr)) fun hi => .next (mkWord hi lo)

/-! ### The shapes of the instructions -/

/-- An instruction without operand and without Bus access: its effect, then its cost. -/
def inherent (s : State) (i : Instr) (f : State → State) : Result State := .next ((f s).charge i 0)

/-- An instruction that reads its operand and computes with it (spec R117): the read, the effect, then
the cost with the page-cross extra (R103). -/
def readOperand (s : State) (i : Instr) (o : Operand) (f : State → Byte → State) : Result State :=
  andThen (operandValue s o) fun v => .next ((f s v).charge i (pageCrossCycles i (resolve s o).crossed))

/-- An instruction that stores a byte at its operand's address, which is not read (spec R117). -/
def storeOperand (s : State) (i : Instr) (o : Operand) (v : Byte) : Result State :=
  andThen (busWrite s (resolve s o).addr v) fun t =>
    .next (t.charge i (pageCrossCycles i (resolve s o).crossed))

/-- A read-modify-write instruction: one read, one write of the new value, then the flags of the new
value (spec 20_memory.md R53, 42_arithmetic_logic.md R161, 43_shift_rotate.md R170). `f` gives the new
value and the new status byte from the old value and the old status byte. -/
def modifyOperand (s : State) (i : Instr) (o : Operand) (f : Byte → Byte → Byte × Byte) : Result State :=
  andThen (operandValue s o) fun v =>
    andThen (busWrite s (resolve s o).addr (f v s.p).1) fun t =>
      .next ((t.setP (f v s.p).2).charge i (pageCrossCycles i (resolve s o).crossed))

/-- `Branch(cond, offset)`: the extra cost is 0 when not taken, 1 when taken, 2 when the target is on
another page than PC (spec 44_branch_jump.md R180). -/
def branch (s : State) (i : Instr) (d : Byte) (cond : Bool) : Result State :=
  let target := s.pc + signExtend16 d
  if cond then .next ((s.setPc target).charge i (if page target ≠ page s.pc then 2 else 1))
  else .next (s.charge i 0)

end Sys2Proof.Machine
end

