-- ==== Sys2Proof/Machine/Arith.lean ====
section
/-! DEFINITION. Arithmetic, logic, compare, increment and decrement (spec 42_arithmetic_logic.md). -/

namespace Sys2Proof.Machine

/-- The adder: C, V, Z, N and A from A, the byte and the carry, whatever D is (spec R150). -/
def State.addCore (s : State) (m : Byte) : State :=
  (s.setA (addResult s.a m (s.flag .c))).setP (addStatus s.p s.a m)

/-- `Compare(R, M)`: the flags only (spec R157). -/
def State.compare (s : State) (r m : Byte) : State := s.setP (compareStatus s.p r m)

/-- ADC: `AddCore(M)` (spec R151). -/
def execAdc (o : AluOperand) (s : State) : Result State :=
  readOperand s (.adc o) o.operand fun s m => s.addCore m

/-- SBC: `AddCore(M ^ 0xFF)` (spec R152). -/
def execSbc (o : AluOperand) (s : State) : Result State :=
  readOperand s (.sbc o) o.operand fun s m => s.addCore (m ^^^ 0xFF#8)

/-- AND: `A <- A & M; SetZN(A)` (spec R153). -/
def execAnd (o : AluOperand) (s : State) : Result State :=
  readOperand s (.and o) o.operand fun s m => (s.setA (s.a &&& m)).withZN (s.a &&& m)

/-- ORA: `A <- A | M; SetZN(A)` (spec R154). -/
def execOra (o : AluOperand) (s : State) : Result State :=
  readOperand s (.ora o) o.operand fun s m => (s.setA (s.a ||| m)).withZN (s.a ||| m)

/-- EOR: `A <- A ^ M; SetZN(A)` (spec R155). -/
def execEor (o : AluOperand) (s : State) : Result State :=
  readOperand s (.eor o) o.operand fun s m => (s.setA (s.a ^^^ m)).withZN (s.a ^^^ m)

/-- BIT: Z from A & M, N and V from bits 7 and 6 of M (spec R156). -/
def execBit (o : BitOperand) (s : State) : Result State :=
  readOperand s (.bit o) o.operand fun s m => s.setP (bitTestStatus s.p s.a m)

/-- CMP: `Compare(A, M)` (spec R158). -/
def execCmp (o : AluOperand) (s : State) : Result State :=
  readOperand s (.cmp o) o.operand fun s m => s.compare s.a m

/-- CPX: `Compare(X, M)` (spec R159). -/
def execCpx (o : CpxOperand) (s : State) : Result State :=
  readOperand s (.cpx o) o.operand fun s m => s.compare s.x m

/-- CPY: `Compare(Y, M)` (spec R160). -/
def execCpy (o : CpxOperand) (s : State) : Result State :=
  readOperand s (.cpy o) o.operand fun s m => s.compare s.y m

/-- INC: `v <- M + 1 mod 256`, written back, `SetZN(v)` (spec R161). -/
def execInc (o : RmwOperand) (s : State) : Result State :=
  modifyOperand s (.inc o) o.operand fun v p => (v + 1, withZN p (v + 1))

/-- DEC: `v <- M - 1 mod 256`, written back, `SetZN(v)` (spec R162). -/
def execDec (o : RmwOperand) (s : State) : Result State :=
  modifyOperand s (.dec o) o.operand fun v p => (v - 1, withZN p (v - 1))

/-- INX: `X <- X + 1 mod 256; SetZN(X)` (spec R163). -/
def execInx (s : State) : Result State :=
  inherent s .inx fun s => (s.setX (s.x + 1)).withZN (s.x + 1)

/-- INY: `Y <- Y + 1 mod 256; SetZN(Y)` (spec R164). -/
def execIny (s : State) : Result State :=
  inherent s .iny fun s => (s.setY (s.y + 1)).withZN (s.y + 1)

/-- DEX: `X <- X - 1 mod 256; SetZN(X)` (spec R165). -/
def execDex (s : State) : Result State :=
  inherent s .dex fun s => (s.setX (s.x - 1)).withZN (s.x - 1)

/-- DEY: `Y <- Y - 1 mod 256; SetZN(Y)` (spec R166). -/
def execDey (s : State) : Result State :=
  inherent s .dey fun s => (s.setY (s.y - 1)).withZN (s.y - 1)

end Sys2Proof.Machine
end

