-- ==== Sys2Proof/Machine/Branch.lean ====
section
/-! DEFINITION. Branches, jumps and subroutines (spec 44_branch_jump.md). -/

namespace Sys2Proof.Machine

/-- BCC: `Branch(P.C = 0, addr)` (spec R181). -/
def execBcc (d : Byte) (s : State) : Result State := branch s (.bcc d) d (!s.flag .c)

/-- BCS: `Branch(P.C = 1, addr)` (spec R182). -/
def execBcs (d : Byte) (s : State) : Result State := branch s (.bcs d) d (s.flag .c)

/-- BEQ: `Branch(P.Z = 1, addr)` (spec R183). -/
def execBeq (d : Byte) (s : State) : Result State := branch s (.beq d) d (s.flag .z)

/-- BNE: `Branch(P.Z = 0, addr)` (spec R184). -/
def execBne (d : Byte) (s : State) : Result State := branch s (.bne d) d (!s.flag .z)

/-- BMI: `Branch(P.N = 1, addr)` (spec R185). -/
def execBmi (d : Byte) (s : State) : Result State := branch s (.bmi d) d (s.flag .n)

/-- BPL: `Branch(P.N = 0, addr)` (spec R186). -/
def execBpl (d : Byte) (s : State) : Result State := branch s (.bpl d) d (!s.flag .n)

/-- BVC: `Branch(P.V = 0, addr)` (spec R187). -/
def execBvc (d : Byte) (s : State) : Result State := branch s (.bvc d) d (!s.flag .v)

/-- BVS: `Branch(P.V = 1, addr)` (spec R188). -/
def execBvs (d : Byte) (s : State) : Result State := branch s (.bvs d) d (s.flag .v)

/-- JMP: `PC <- addr` (spec R189). -/
def execJmp (o : JmpOperand) (s : State) : Result State :=
  andThen (jumpTarget s o) fun target => .next ((s.setPc target).charge (.jmp o) 0)

/-- JSR: push the address of the last byte of the instruction, high byte first, and jump (spec R190). -/
def execJsr (w : Word) (s : State) : Result State :=
  inherent s (.jsr w) fun s => ((s.push (hiByte (s.pc - 1))).push (loByte (s.pc - 1))).setPc w

/-- RTS: pull low byte, then high byte, and go on one past the pulled address (spec R191). -/
def execRts (s : State) : Result State :=
  inherent s .rts fun s => s.pop.pop.setPc (mkWord s.pop.pulled s.pulled + 1)

end Sys2Proof.Machine
end

