-- ==== Sys2Proof/Machine/LoadStore.lean ====
section
/-! DEFINITION. Loads, stores and register transfers (spec 41_load_store_transfer.md). -/

namespace Sys2Proof.Machine

/-- LDA: `A <- MemRead(addr, 1); SetZN(A)` (spec R130). -/
def execLda (o : AluOperand) (s : State) : Result State :=
  readOperand s (.lda o) o.operand fun s v => (s.setA v).withZN v

/-- LDX: `X <- MemRead(addr, 1); SetZN(X)` (spec R131). -/
def execLdx (o : LdxOperand) (s : State) : Result State :=
  readOperand s (.ldx o) o.operand fun s v => (s.setX v).withZN v

/-- LDY: `Y <- MemRead(addr, 1); SetZN(Y)` (spec R132). -/
def execLdy (o : LdyOperand) (s : State) : Result State :=
  readOperand s (.ldy o) o.operand fun s v => (s.setY v).withZN v

/-- STA: `MemWrite(addr, 1, A)`, no flag (spec R133). -/
def execSta (o : StaOperand) (s : State) : Result State := storeOperand s (.sta o) o.operand s.a

/-- STX: `MemWrite(addr, 1, X)`, no flag (spec R134). -/
def execStx (o : StxOperand) (s : State) : Result State := storeOperand s (.stx o) o.operand s.x

/-- STY: `MemWrite(addr, 1, Y)`, no flag (spec R135). -/
def execSty (o : StyOperand) (s : State) : Result State := storeOperand s (.sty o) o.operand s.y

/-- TAX: `X <- A; SetZN(X)` (spec R136). -/
def execTax (s : State) : Result State := inherent s .tax fun s => (s.setX s.a).withZN s.a

/-- TAY: `Y <- A; SetZN(Y)` (spec R137). -/
def execTay (s : State) : Result State := inherent s .tay fun s => (s.setY s.a).withZN s.a

/-- TXA: `A <- X; SetZN(A)` (spec R138). -/
def execTxa (s : State) : Result State := inherent s .txa fun s => (s.setA s.x).withZN s.x

/-- TYA: `A <- Y; SetZN(A)` (spec R139). -/
def execTya (s : State) : Result State := inherent s .tya fun s => (s.setA s.y).withZN s.y

/-- TSX: `X <- S; SetZN(X)` (spec R140). -/
def execTsx (s : State) : Result State := inherent s .tsx fun s => (s.setX s.sp).withZN s.sp

/-- TXS: `S <- X`, no flag (spec R141). -/
def execTxs (s : State) : Result State := inherent s .txs fun s => s.setSp s.x

end Sys2Proof.Machine
end

