-- ==== Sys2Proof/Machine/Shift.lean ====
section
/-! DEFINITION. Shifts and rotates (spec 43_shift_rotate.md). -/

namespace Sys2Proof.Machine

/-- `ShiftOp(f, mode, addr)`: on A in Accumulator mode, else on the memory location, with C from the
bit shifted out and Z and N from the result (spec R170). -/
def shiftOp (s : State) (i : Instr) (f : Byte → Bool → Byte × Bool) : ShiftOperand → Result State
  | .acc =>
    inherent s i fun s =>
      (s.setA (f s.a (s.flag .c)).1).setP (shiftStatus s.p (f s.a (s.flag .c)).1 (f s.a (s.flag .c)).2)
  | .mem o =>
    modifyOperand s i o.operand fun v p =>
      ((f v (getFlag p .c)).1, shiftStatus p (f v (getFlag p .c)).1 (f v (getFlag p .c)).2)

/-- ASL: arithmetic shift left (spec R171). -/
def execAsl (o : ShiftOperand) (s : State) : Result State := shiftOp s (.asl o) shiftLeft o

/-- LSR: logical shift right (spec R172). -/
def execLsr (o : ShiftOperand) (s : State) : Result State := shiftOp s (.lsr o) shiftRight o

/-- ROL: rotate left through carry (spec R173). -/
def execRol (o : ShiftOperand) (s : State) : Result State := shiftOp s (.rol o) rotateLeft o

/-- ROR: rotate right through carry (spec R174). -/
def execRor (o : ShiftOperand) (s : State) : Result State := shiftOp s (.ror o) rotateRight o

end Sys2Proof.Machine
end

