-- ==== Sys2Proof/Machine/System.lean ====
section
/-! DEFINITION. Stack, flag and system instructions, and the illegal-opcode placeholder (spec
45_stack_flags_system.md). -/

namespace Sys2Proof.Machine

/-- PHA: `Push(A)` (spec R200). -/
def execPha (s : State) : Result State := inherent s .pha fun s => s.push s.a

/-- PHP: `Push(P | 0x30)` (spec R201). -/
def execPhp (s : State) : Result State := inherent s .php fun s => s.push (statusPushedByInstruction s.p)

/-- PLA: `A <- Pull(); SetZN(A)` (spec R202). -/
def execPla (s : State) : Result State := inherent s .pla fun s => (s.pop.setA s.pulled).withZN s.pulled

/-- PLP: `P <- Pull() | 0x20` (spec R203). -/
def execPlp (s : State) : Result State := inherent s .plp fun s => s.pop.setP (statusPulled s.pulled)

/-- CLC: `P.C <- 0` (spec R204). -/
def execClc (s : State) : Result State := inherent s .clc fun s => s.putFlag .c false

/-- SEC: `P.C <- 1` (spec R205). -/
def execSec (s : State) : Result State := inherent s .sec fun s => s.putFlag .c true

/-- CLI: `P.I <- 0` (spec R206). -/
def execCli (s : State) : Result State := inherent s .cli fun s => s.putFlag .i false

/-- SEI: `P.I <- 1` (spec R207). -/
def execSei (s : State) : Result State := inherent s .sei fun s => s.putFlag .i true

/-- CLD: `P.D <- 0` (spec R208). -/
def execCld (s : State) : Result State := inherent s .cld fun s => s.putFlag .d false

/-- SED: `P.D <- 1` (spec R209). -/
def execSed (s : State) : Result State := inherent s .sed fun s => s.putFlag .d true

/-- CLV: `P.V <- 0` (spec R210). -/
def execClv (s : State) : Result State := inherent s .clv fun s => s.putFlag .v false

/-- NOP: nothing but its cost (spec R211). -/
def execNop (s : State) : Result State := inherent s .nop id

/-- The address BRK pushes: PC + BRK_PAD modulo 65,536 (spec R212; log 6). -/
def brkReturn (s : State) : Word := s.pc + BitVec.ofNat 16 s.params.brkPad.val

/-- The status byte BRK pushes: Interrupt-disable already set, Break and Unused forced to 1 (spec
R212, 90_conflicts.md C7). -/
def brkStatus (s : State) : Byte := statusPushedByInstruction (putFlag s.p .i true)

/-- BRK: the interrupt sequence with the vector 0xFFFE, not masked by Interrupt-disable (spec R212). -/
def execBrk (s : State) : Result State :=
  andThen (takeInterrupt s irqVector (brkReturn s) (brkStatus s)) fun t => .next (t.charge .brk 0)

/-- RTI: pull status, then PC (spec R213). -/
def execRti (s : State) : Result State := inherent s .rti returnFromInterrupt

/-- ILL, the entry of every illegal opcode byte: nothing but its cost (spec R214). -/
def execIll (op : Byte) (s : State) : Result State := inherent s (.ill op) id

end Sys2Proof.Machine
end

