-- ==== Sys2Proof/Machine/Clock.lean ====
section
/-! DEFINITION. Fetching an instruction's bytes, the CPU's step, the CPU clock and the master clock
(spec 40_step_and_addressing.md R100 to R102, 60_exceptions.md R242). -/

namespace Sys2Proof.Machine

/-- `Fetch()`: the byte at PC through the Bus, and PC advanced by one modulo 65,536 (spec
40_step_and_addressing.md R102). -/
def fetchByte (s : State) : Result (Byte × State) :=
  andThen (busRead s s.pc) fun b => .next (b, s.setPc (s.pc + 1))

/-- The instruction at PC and the state with PC past it: the opcode byte, then as many operand bytes
as its mode has (spec 40_step_and_addressing.md R101, 30_encoding.md R80, R81). -/
def fetch (s : State) : Result (Instr × State) :=
  andThen (fetchByte s) fun (op, s1) =>
    match (entry op).mode.operandBytes with
    | 0 => .next (decodeBytes op 0 0, s1)
    | 1 => andThen (fetchByte s1) fun (b1, s2) => .next (decodeBytes op b1 0, s2)
    | _ =>
      andThen (fetchByte s1) fun (b1, s2) =>
        andThen (fetchByte s2) fun (b2, s3) => .next (decodeBytes op b1 b2, s3)

/-- `Step()`: one whole instruction (spec 40_step_and_addressing.md R101). -/
def cpuStep (s : State) : Result State := andThen (fetch s) fun (i, t) => exec i t

/-- `Cpu.clock()`: a step when `cycles` is zero on entry, then the decrement (spec
40_step_and_addressing.md R100). -/
def cpuClock (s : State) : Result State :=
  andThen (if s.cycles = 0 then cpuStep s else .next s) fun t => .next (t.setCycles (t.cycles - 1))

/-- The precondition of the operations that run the CPU: not faulted, powered, a Mapper in the slot
(spec 60_exceptions.md R228, R238, R242, R250; log 14 for which refusal comes first). -/
def whenRunning {α : Type} (s : State) (x : Result α) : Result α :=
  if s.faulted then .refused .coreFaulted
  else if !s.connected then .refused .notPowered
  else if s.mapper.isNone then .refused .noMapper
  else x

/-- `Bus.clock()`, one master tick: the counter advances by one, and the CPU clock runs on the ticks
after which `mclk mod 3 = 0` (spec 60_exceptions.md R242). -/
def clock (s : State) : Result State :=
  whenRunning s
    (if (s.mclk + 1) % 3 = 0 then cpuClock (s.setMclk (s.mclk + 1)) else .next (s.setMclk (s.mclk + 1)))

/-- The state just before the master tick that performs the next instruction: the cycles still owed are
counted down, and the master-clock counter stands one short of the CPU clock that finds `cycles = 0`,
the `cycles + 1`-th CPU clock from here (spec R100, R242; log 1). -/
def State.atNextFetch (s : State) : State :=
  (s.setCycles 0).setMclk (3 * (s.mclk / 3 + s.cycles + 1) - 1)

/-! ### A program placed where the next step fetches it (log 2) -/

/-- A byte placed in RAM at an address of the RAM window. -/
def State.placeRam (s : State) (a : Word) (v : Byte) : State := s.setRam (s.ram.write (ramIndex a) v)

/-- A cartridge with a byte of program ROM placed where a CPU address reads it. -/
def Cartridge.placePrg (c : Cartridge) (a : Word) (v : Byte) : Cartridge :=
  { c with prg := c.prg.write (c.prgIndex a) v }

/-- Three bytes placed at PC when PC and the two addresses after it lie in RAM or all lie in cartridge
space, else at 0x0000 with PC moved there. The core is made ready to run: powered, not faulted, with a
Mapper (a blank cartridge if the slot is empty). -/
def State.placeAtPc (s : State) (b0 b1 b2 : Byte) : State :=
  let c := match s.mapper with
    | none => Cartridge.blank
    | some m => m.cartridge
  let ready := (s.setConnected true).setFaulted false
  if 0x4020 ≤ s.pc.toNat ∧ s.pc.toNat ≤ 0xFFFD then
    ready.setMapper (some (.direct (((c.placePrg s.pc b0).placePrg (s.pc + 1) b1).placePrg (s.pc + 2) b2)))
  else
    let at0 := if s.pc.toNat ≤ 0x1FFD then s.pc else 0x0000#16
    ((((ready.setMapper (some (.direct c))).setPc at0).placeRam at0 b0).placeRam (at0 + 1) b1).placeRam (at0 + 2) b2

end Sys2Proof.Machine
end

