-- ==== Sys2Proof/Machine/Step.lean ====
section
/-! DEFINITION. One step of the machine: the master ticks up to and including the one that performs the
next instruction (log 1), and the placing of an instruction where that step fetches it (log 2). -/

namespace Sys2Proof.Machine

/-- The next instruction: the cycles still owed are counted down and the master tick that finds
`cycles = 0` is performed, which fetches, decodes and executes one instruction and decrements (spec
40_step_and_addressing.md R100, R121, 60_exceptions.md R242). It is the same as that many calls of
`clock` (Obligations.StepIsTheTicksUpToTheNextInstruction). -/
def step (s : State) : Host.Outcome State Fault Refusal := clock s.atNextFetch

/-- The state with the instruction whose bits are `w` stored where `step` fetches its next instruction,
byte k at bits 8k+7..8k, the bits from `nbits` up being zero. -/
def State.withFetchWord (s : State) (nbits w : Nat) : State :=
  let v := w % 2 ^ nbits
  s.placeAtPc (BitVec.ofNat 8 v) (BitVec.ofNat 8 (v / 256)) (BitVec.ofNat 8 (v / 65536))

end Sys2Proof.Machine
end

