-- ==== Sys2Proof/Machine/HostOps.lean ====
section
/-! DEFINITION. The host interface, complete: the operations of spec 60_exceptions.md R250, each with its
precondition, effect and result; the transition an operation makes, into the faulted state when it raises a
bus fault; and the sessions a host may make of them. -/

namespace Sys2Proof.Machine

/-- The operations the host can apply to a built core (spec 60_exceptions.md R250). Building is
`State.built`. -/
inductive HostOp where
  /-- `insert(c)` (spec 20_memory.md R57). -/
  | insert (c : Cartridge)
  /-- `power()` (spec 70_reset_and_hazards.md R260). -/
  | power
  /-- `reset()` (spec 70_reset_and_hazards.md R261). -/
  | reset
  /-- `clock()`, one master tick (spec 60_exceptions.md R242). -/
  | clock
  /-- `irq()` (spec 60_exceptions.md R222). -/
  | irq
  /-- `nmi()` (spec 60_exceptions.md R223). -/
  | nmi
  /-- The debug `read(a, readOnly)` (spec 20_memory.md R42, R50). -/
  | read (a : Word) (readOnly : Bool)
  /-- The debug `read16(a, readOnly)` (spec 20_memory.md R44). -/
  | read16 (a : Word) (readOnly : Bool)
  /-- The debug `write(a, v)` (spec 20_memory.md R43). -/
  | write (a : Word) (v : Byte)
  /-- The register accessor (spec 60_exceptions.md R247). -/
  | registers
  /-- The disassembly accessor (spec 60_exceptions.md R248). -/
  | disassembly
  /-- `graphicsRead(a)` on the Mapper (spec 20_memory.md R61). -/
  | graphicsRead (a : Word)
  /-- `graphicsWrite(a, v)` on the Mapper (spec 20_memory.md R62). -/
  | graphicsWrite (a : Word) (v : Byte)
  deriving DecidableEq, Repr

/-- What an operation gives back to the host (spec 60_exceptions.md R250). -/
inductive HostResult where
  /-- No result. -/
  | none
  /-- `insert` reports success or failure. -/
  | inserted (success : Bool)
  /-- The new master-clock count. -/
  | ticks (mclk : Nat)
  /-- A byte read. -/
  | byte (v : Byte)
  /-- A word read. -/
  | word (v : Word)
  /-- A, X, Y, S, PC, P. -/
  | registers (a x y sp : Byte) (pc : Word) (p : Byte)
  /-- The disassembly line: empty, or the line that describes an instruction, whose text the spec does
  not give (log 13). -/
  | line (next : Option Instr)
  deriving DecidableEq, Repr

/-- An operation whose precondition is only that the core has not faulted (spec R238, R250). -/
def whenNotFaulted {α : Type} (s : State) (x : Result α) : Result α :=
  if s.faulted then .refused .coreFaulted else x

/-- An operation that reads an address: a Mapper must be there if the address lies in cartridge space
(spec 60_exceptions.md R250, row `read`). -/
def whenReadable {α : Type} (s : State) (a : Word) (x : Result α) : Result α :=
  if region a = .cartridge ∧ s.mapper = none then .refused .noMapper else x

/-- `insert(c)` (spec 20_memory.md R57): refused unless the slot is empty, the core not powered and the
record well-formed (`Cartridge.lacksProgram` for the program bank); then the Mapper of a registered
selector is installed and success reported, or nothing changes and failure is reported. -/
def insertCartridge (c : Cartridge) (s : State) : Result (State × Bool) :=
  if s.mapper.isSome || s.connected then .refused .insertNotAllowed
  else if !c.wf || c.lacksProgram s.params then .refused .recordNotWellFormed
  else
    match Mapper.make s.params c with
    | some m => .next (s.setMapper (some m), true)
    | none => .next (s, false)

/-- `power()` (spec 70_reset_and_hazards.md R260). -/
def power (s : State) : Result State :=
  if s.mapper.isNone then .refused .noMapper else busReset (s.setConnected true)

/-- The disassembly accessor: empty unless `cycles = 0`, else the instruction at PC (spec
60_exceptions.md R248; log 13). -/
def disassembly (s : State) : Result (Option Instr) :=
  if s.cycles = 0 then andThen (fetch s) fun (i, _) => .next (some i) else .next none

/-- An operation on the Mapper, refused while the slot is empty (spec 60_exceptions.md R250). -/
def withMapper {α : Type} (s : State) (f : Mapper → Result α) : Result α :=
  match s.mapper with
  | none => .refused .noMapper
  | some m => f m

/-- One host operation: the new state and the result (spec 60_exceptions.md R250). The precondition is
tested first (log 18). -/
def hostOp (op : HostOp) (s : State) : Result (State × HostResult) :=
  match op with
  | .insert c => whenNotFaulted s (andThen (insertCartridge c s) fun (t, ok) => .next (t, .inserted ok))
  | .power => whenNotFaulted s (andThen (power s) fun t => .next (t, .none))
  | .reset => whenRunning s (andThen (busReset s) fun t => .next (t, .none))
  | .clock => andThen (clock s) fun t => .next (t, .ticks t.mclk)
  | .irq => whenRunning s (andThen (irq s) fun t => .next (t, .none))
  | .nmi => whenRunning s (andThen (nmi s) fun t => .next (t, .none))
  | .read a _ => whenNotFaulted s (andThen (busRead s a) fun v => .next (s, .byte v))
  | .read16 a _ =>
    whenNotFaulted s
      (whenReadable s a (whenReadable s (a + 1) (andThen (busRead16 s a) fun v => .next (s, .word v))))
  | .write a v => whenNotFaulted s (andThen (busWrite s a v) fun t => .next (t, .none))
  | .registers => whenRunning s (.next (s, .registers s.a s.x s.y s.sp s.pc s.p))
  | .disassembly => whenRunning s (andThen (disassembly s) fun i => .next (s, .line i))
  | .graphicsRead a =>
    whenNotFaulted s (withMapper s fun m => andThen (m.graphicsRead a) fun v => .next (s, .byte v))
  | .graphicsWrite a v =>
    whenNotFaulted s
      (withMapper s fun m => andThen (m.graphicsWrite a v) fun m' => .next (s.setMapper (some m'), .none))

/-! ### The faulted state and sessions -/

/-- A byte that the spec does not specify in the state after a bus fault: a free value (log 8). -/
opaque unspecifiedByte : State → HostOp → Nat → Byte

/-- The value of PC after a bus fault: a free value (log 8). -/
opaque unspecifiedPc : State → HostOp → Word

/-- The value of a counter after a bus fault: a free value (log 8). -/
opaque unspecifiedCount : State → HostOp → Nat → Nat

/-- The faulted state: the mark is set, and "the values of all registers, `cycles`, `mclk` and RAM in the
faulted state are not specified" (spec 10_state.md R27, 60_exceptions.md R236), so each is a free value of
the state and the operation that faulted, within the limits the spec sets on every state: RAM has 2,048
bytes (R21) and the Unused bit reads as 1 (R17) (log 8). -/
def State.afterFault (s : State) (op : HostOp) : State :=
  { s with
    a := unspecifiedByte s op 0
    x := unspecifiedByte s op 1
    y := unspecifiedByte s op 2
    sp := unspecifiedByte s op 3
    p := statusPulled (unspecifiedByte s op 4)
    pc := unspecifiedPc s op
    cycles := unspecifiedCount s op 0
    mclk := unspecifiedCount s op 1
    ram := Memory.ofBytes (fun k => unspecifiedByte s op (5 + k)) 2048
    faulted := true }

/-- What the host hears of an operation that was not refused. -/
inductive HostReply where
  /-- The operation completed, with this result. -/
  | done (r : HostResult)
  /-- The operation raised a fault and did not complete. -/
  | faulted (f : Fault)
  deriving DecidableEq, Repr

/-- The transition of one host operation: "one transition per host operation" (spec 00_scope.md R2). An
operation that raises a bus fault leads to the faulted state (60_exceptions.md R236); a refused one has no
transition (R238). -/
def transition (op : HostOp) (s : State) : Result (State × HostReply) :=
  match hostOp op s with
  | .next (t, r) => .next (t, .done r)
  | .fault f => .next (s.afterFault op, .faulted f)
  | .refused r => .refused r

/-- Whether an `irq()` has been presented in the window that one more operation leaves open: a window is "the
interval between two consecutive CPU clocks" (spec 92_eei_decisions.md D15, 60_exceptions.md R229), and the
CPU clock is the master tick that makes `mclk` a multiple of three (R242). The stretch before the first CPU
clock, after `power()`, is taken as a window too, and neither `power()` nor `reset()`, which are no CPU clocks,
ends one: the spec does not speak of these, and both are the model's choice (log 16). -/
def irqPresented (before : Bool) (op : HostOp) (s : State) : Bool :=
  match op with
  | .irq => true
  | .clock => before && decide ((s.mclk + 1) % 3 ≠ 0)
  | .insert _ | .power | .reset | .nmi | .read _ _ | .read16 _ _ | .write _ _ => before
  | .registers | .disassembly | .graphicsRead _ | .graphicsWrite _ _ => before

/-- A session from a point of a window: the operations in order, up to the first refusal. An `nmi()` after
an `irq()` in one window is not allowed: "a model that lets the environment choose the order must constrain
it to NMI first" (spec 60_exceptions.md R229). The spec also gives that order's effect (95_test_vectors.md
T12.11), which `hostOp` and `transition` have; that a session follows R229, and ends there with a refusal of
its own name, is the model's choice (log 16). The reasons of the operation itself, the fault mark among them,
are named before that one (log 14). -/
def hostRunFrom (presented : Bool) : List HostOp → State → Result State
  | [], s => .next s
  | op :: ops, s =>
    andThen (transition op s) fun (t, _) =>
      if presented = true ∧ op = .nmi then .refused .nmiAfterIrq
      else hostRunFrom (irqPresented presented op s) ops t

/-- A session of the host, from a state in whose window no `irq()` has been presented yet (log 16). -/
def hostRun (ops : List HostOp) (s : State) : Result State := hostRunFrom false ops s

end Sys2Proof.Machine
end

