-- ==== Sys2Proof/Safety.lean ====
section
/-! DEFINITION. The terms claims use: when an address can be accessed and what it holds, the form of an
instruction, what an instruction may write, the invariant of the core, and a safe run. -/

namespace Sys2Proof.Machine

/-! ### Accesses -/

/-- An access of the Bus to this address goes on: it is not in the disabled region, and if it is in
cartridge space a Mapper is installed (spec 20_memory.md R41, R42, R48). -/
def accessible (s : State) (a : Word) : Bool :=
  match region a with
  | .ram | .graphicsStub | .audioStub => true
  | .disabled => false
  | .cartridge => s.mapper.isSome

/-- The byte an accessible address reads as (spec 20_memory.md R41). -/
def byteAt (s : State) (a : Word) : Byte :=
  match region a with
  | .ram => s.ram.read (ramIndex a)
  | .graphicsStub | .audioStub | .disabled => 0x00#8
  | .cartridge =>
    match s.mapper with
    | none => 0x00#8
    | some m => m.cpuRead a

/-- The operand can be used: an immediate always, else its address can be accessed. -/
def operandReady (s : State) (o : Operand) : Bool :=
  match o with
  | .imm _ => true
  | o => accessible s (resolve s o).addr

/-- The value of an operand: the immediate byte, or the byte at its address (spec
40_step_and_addressing.md R106, R117). -/
def operandByte (s : State) (o : Operand) : Byte :=
  match o with
  | .imm b => b
  | o => byteAt s (resolve s o).addr

/-- The operand is one whose address lies in the disabled region, an immediate apart. -/
def operandDisabled (s : State) (o : Operand) : Bool :=
  match o with
  | .imm _ => false
  | o => decide (region (resolve s o).addr = .disabled)

/-- RAM after a byte is stored at an address: the Bus stores only in RAM (spec 20_memory.md R43, R60). -/
def ramAfterStore (s : State) (a : Word) (v : Byte) : Memory :=
  if region a = .ram then s.ram.write (ramIndex a) v else s.ram

/-- Two addresses name one byte: they are the same, or both lie in RAM and agree in their low 11 bits
(spec 20_memory.md R45). -/
def sameByte (a b : Word) : Prop :=
  a = b ∨ (region a = .ram ∧ region b = .ram ∧ ramIndex a = ramIndex b)

/-- The address of the stack location a stack pointer names, 0x0100 + S (spec 10_state.md R13). -/
def stackAddress (sp : Byte) : Word := 0x0100#16 + zeroExtend16 sp

/-- The addresses a shift stores to: none in Accumulator mode (spec 43_shift_rotate.md R170). -/
def shiftStored (s : State) : ShiftOperand → List Word
  | .acc => []
  | .mem o => [(resolve s o.operand).addr]

/-- The addresses an instruction stores to, computed as its meaning computes them: the resolved address
of a store or a read-modify-write, the stack locations of a push, a call or a break (spec
41_load_store_transfer.md to 45_stack_flags_system.md). -/
def bytesStored (s : State) (i : Instr) : List Word :=
  match i with
  | .sta o => [(resolve s o.operand).addr]
  | .stx o => [(resolve s o.operand).addr]
  | .sty o => [(resolve s o.operand).addr]
  | .inc o | .dec o => [(resolve s o.operand).addr]
  | .asl o | .lsr o | .rol o | .ror o => shiftStored s o
  | .pha | .php => [stackAddress s.sp]
  | .jsr _ => [stackAddress s.sp, stackAddress (s.sp - 1)]
  | .brk => [stackAddress s.sp, stackAddress (s.sp - 1), stackAddress (s.sp - 1 - 1)]
  | .lda _ | .ldx _ | .ldy _ | .tax | .tay | .txa | .tya | .tsx | .txs => []
  | .adc _ | .sbc _ | .and _ | .ora _ | .eor _ | .bit _ | .cmp _ | .cpx _ | .cpy _ => []
  | .inx | .iny | .dex | .dey => []
  | .bcc _ | .bcs _ | .beq _ | .bne _ | .bmi _ | .bpl _ | .bvc _ | .bvs _ | .jmp _ | .rts => []
  | .pla | .plp | .clc | .sec | .cli | .sei | .cld | .sed | .clv | .nop | .rti | .ill _ => []

/-! ### What an instruction may write -/

/-- The flags an instruction may change, from the table of spec 10_state.md R19. -/
def flagsWritten : Mnemonic → List Flag
  | .lda | .ldx | .ldy | .tax | .tay | .txa | .tya | .tsx | .pla => [.n, .z]
  | .and | .ora | .eor | .inc | .dec | .inx | .iny | .dex | .dey => [.n, .z]
  | .adc | .sbc => [.n, .v, .z, .c]
  | .cmp | .cpx | .cpy => [.n, .z, .c]
  | .asl | .lsr | .rol | .ror => [.n, .z, .c]
  | .bit => [.n, .v, .z]
  | .clc | .sec => [.c]
  | .cli | .sei => [.i]
  | .cld | .sed => [.d]
  | .clv => [.v]
  | .plp | .rti => [.n, .v, .b, .d, .i, .z, .c]
  | .brk => [.i]
  | .sta | .stx | .sty | .txs | .pha | .php | .jmp | .jsr | .rts | .nop | .ill => []
  | .bcc | .bcs | .beq | .bne | .bmi | .bpl | .bvc | .bvs => []

/-- The shift's operand is the accumulator (spec 43_shift_rotate.md R170). -/
def onAccumulator : ShiftOperand → Bool
  | .acc => true
  | .mem _ => false

/-- The instruction may write A (spec 10_state.md R10). -/
def writesA : Instr → Bool
  | .lda _ | .adc _ | .sbc _ | .and _ | .ora _ | .eor _ | .pla | .txa | .tya => true
  | .asl o | .lsr o | .rol o | .ror o => onAccumulator o
  | _ => false

/-- The instruction may write X (spec 10_state.md R11). -/
def writesX : Instr → Bool
  | .ldx _ | .tax | .tsx | .inx | .dex => true
  | _ => false

/-- The instruction may write Y (spec 10_state.md R12). -/
def writesY : Instr → Bool
  | .ldy _ | .tay | .iny | .dey => true
  | _ => false

/-- The instruction may write S: it pushes, pulls, or is TXS (spec 10_state.md R13). -/
def writesS : Instr → Bool
  | .pha | .php | .pla | .plp | .jsr _ | .rts | .brk | .rti | .txs => true
  | _ => false

/-- The instruction may write PC beyond the advance past its own bytes (spec 10_state.md R14). -/
def writesPc : Instr → Bool
  | .bcc _ | .bcs _ | .beq _ | .bne _ | .bmi _ | .bpl _ | .bvc _ | .bvs _ => true
  | .jmp _ | .jsr _ | .rts | .rti | .brk => true
  | _ => false

/-! ### The form of an instruction -/

/-- The instruction is encoded by these bytes, has this base cost, and pays one more cycle for a page
cross iff it is eligible: what an "Encodings" line of an instruction's rule says of one form. -/
def hasForm (i : Instr) (bytes : List Byte) (base : Nat) (eligible : Bool) : Prop :=
  encode i = bytes ∧ (∀ ps, baseCycles ps i = base) ∧
    ∀ crossed, pageCrossCycles i crossed = if eligible && crossed then 1 else 0

/-- The extra cycles that an instruction with this operand pays (spec 40_step_and_addressing.md R103). -/
def crossingCycles (s : State) (i : Instr) (o : Operand) : Nat := pageCrossCycles i (resolve s o).crossed

/-- `cycles` after an instruction with a data operand: the base cost and the page-cross extra are added
(spec 40_step_and_addressing.md R103). -/
def cyclesAfter (s : State) (i : Instr) (o : Operand) : Nat :=
  s.cycles + baseCycles s.params i + crossingCycles s i o

/-- The eight forms of the instructions that read an operand into an operation on A, with their opcode
bytes as given and the costs of the table (spec 42_arithmetic_logic.md section 6, R130, R151 to R158). -/
def aluForms (mk : AluOperand → Instr) (imm zp0 zpx abs abx aby izx izy : Byte) : Prop :=
  ∀ (b : Byte) (w : Word),
    hasForm (mk (.imm b)) [imm, b] 2 false ∧ hasForm (mk (.zp0 b)) [zp0, b] 3 false ∧
    hasForm (mk (.zpx b)) [zpx, b] 4 false ∧ hasForm (mk (.abs w)) [abs, loByte w, hiByte w] 4 false ∧
    hasForm (mk (.abx w)) [abx, loByte w, hiByte w] 4 true ∧
    hasForm (mk (.aby w)) [aby, loByte w, hiByte w] 4 true ∧
    hasForm (mk (.izx b)) [izx, b] 6 false ∧ hasForm (mk (.izy b)) [izy, b] 5 true

/-- The four memory forms of a read-modify-write instruction (spec 42_arithmetic_logic.md R161, R162,
43_shift_rotate.md R171 to R174). -/
def rmwForms (mk : RmwOperand → Instr) (zp0 zpx abs abx : Byte) : Prop :=
  ∀ (b : Byte) (w : Word),
    hasForm (mk (.zp0 b)) [zp0, b] 5 false ∧ hasForm (mk (.zpx b)) [zpx, b] 6 false ∧
    hasForm (mk (.abs w)) [abs, loByte w, hiByte w] 6 false ∧
    hasForm (mk (.abx w)) [abx, loByte w, hiByte w] 7 false

/-! ### Shapes of the statements -/

/-- The value a list gives a flag, else the value it had. -/
def listedOr (old : Bool) (f : Flag) : List (Flag × Bool) → Bool
  | [] => old
  | (g, v) :: fs => if f = g then v else listedOr old f fs

/-- The listed flags of the second status byte hold the listed values, and every other flag holds what
it holds in the first. -/
def flagsBecome (p q : Byte) (fs : List (Flag × Bool)) : Prop :=
  ∀ f, getFlag q f = listedOr (getFlag p f) f fs

/-- The values of Z and N that the value of a byte gives (spec 10_state.md R19). -/
def znOf (v : Byte) : List (Flag × Bool) := [(.z, v == 0#8), (.n, v.getLsbD 7)]

/-- The instruction stores this byte at its operand: in RAM when the address lies there, nowhere when it
lies in a stub region or in cartridge space, and an address in the disabled region is a bus fault. -/
def storesByte (i : Instr) (o : Operand) (v : Byte) (s : State) : Prop :=
  (accessible s (resolve s o).addr = true →
    exec i s = .next { s with ram := ramAfterStore s (resolve s o).addr v, cycles := cyclesAfter s i o }) ∧
  (region (resolve s o).addr = .disabled → exec i s = .fault (.busFault (resolve s o).addr))

/-- The instruction replaces the byte `v` at its operand by `f v`, and the flags become those listed. -/
def modifiesByte (i : Instr) (o : Operand) (f : Byte → Byte) (fs : Byte → List (Flag × Bool)) (s : State) :
    Prop :=
  (operandReady s o = true →
    ∃ p, exec i s = .next { s with
        ram := ramAfterStore s (resolve s o).addr (f (operandByte s o))
        p := p
        cycles := cyclesAfter s i o } ∧ flagsBecome s.p p (fs (operandByte s o))) ∧
  (operandDisabled s o = true → exec i s = .fault (.busFault (resolve s o).addr))

/-- The instruction shifts A in its Accumulator form and its operand's byte in its memory forms: from the
value and the carry, `r` gives the result and `c` the bit shifted out (spec 43_shift_rotate.md R170). -/
def shifts (mk : ShiftOperand → Instr) (r : Byte → Bool → Byte) (c : Byte → Bool) (s : State) : Prop :=
  (∃ p, exec (mk .acc) s = .next { s with a := r s.a (s.flag .c), p := p, cycles := s.cycles + 2 } ∧
    flagsBecome s.p p ((.c, c s.a) :: znOf (r s.a (s.flag .c)))) ∧
  ∀ o : RmwOperand, modifiesByte (mk (.mem o)) o.operand (fun v => r v (s.flag .c))
    (fun v => (.c, c v) :: znOf (r v (s.flag .c))) s

/-- The branch is taken exactly when the flag has the value: its bytes, its cost, its target and that it
changes nothing else (spec 44_branch_jump.md R180). -/
def branches (mk : Byte → Instr) (op : Byte) (f : Flag) (v : Bool) : Prop :=
  (∀ d, hasForm (mk d) [op, d] 2 false) ∧
  (∀ d s, s.flag f ≠ v → exec (mk d) s = .next { s with cycles := s.cycles + 2 }) ∧
  ∀ d s, s.flag f = v →
    exec (mk d) s = .next { s with
      pc := BitVec.ofInt 16 ((s.pc.toNat : Int) + d.toInt)
      cycles := s.cycles +
        (if (BitVec.ofInt 16 ((s.pc.toNat : Int) + d.toInt)).toNat / 256 = s.pc.toNat / 256 then 3 else 4) }

/-- RAM after three pushes from a stack pointer: PC high, PC low, status (spec 60_exceptions.md R225). -/
def framePushed (s : State) (returnPc : Word) (status : Byte) : Memory :=
  ((s.ram.write (0x100 + s.sp.toNat) (hiByte returnPc)).write (0x100 + (s.sp - 1).toNat)
    (loByte returnPc)).write (0x100 + (s.sp - 2).toNat) status

/-- The word a Mapper supplies at an address: its low byte there, its high byte at the next (spec
20_memory.md R44, R49). -/
def vectorWord (m : Mapper) (a : Word) : Word := mkWord (m.cpuRead (a + 1)) (m.cpuRead a)

/-! ### The invariant and safe runs -/

/-- A Mapper's cartridge record meets the length conditions (spec 10_state.md R25, in the canonical form of
log 4) and has a program bank: with selector 0 as the spec says (20_memory.md R57), with another selector as
the model's choice (log 9). -/
def Mapper.wf (m : Mapper) : Bool := m.cartridge.wf && m.cartridge.prgBanks != 0

/-- The invariant of the core. -/
structure Inv (s : State) : Prop where
  /-- RAM is in canonical form. -/
  ram_wf : s.ram.wf = true
  /-- RAM has 2,048 bytes (spec 10_state.md R21). -/
  ram_size : s.ram.below 2048 = true
  /-- An installed Mapper owns a well-formed record (spec 20_memory.md R57). -/
  mapper_wf : ∀ m, s.mapper = some m → m.wf = true
  /-- A powered core has a Mapper (spec 70_reset_and_hazards.md R260, R265). -/
  mapper_of_connected : s.connected = true → s.mapper.isSome = true
  /-- From the first reset on the Unused bit is 1 (spec 10_state.md R17). -/
  unused_set : s.connected = true → s.flag .u = true

/-- Every illegal byte costs at most 9 cycles, the premise under which `cycles` stays at most 8 (spec
10_state.md R20). -/
def illegalCostsAtMostNine (ps : Params) : Prop := ∀ op, isIllegalOpcode op = true → illegalCycles ps op ≤ 9

/-- The core is running: powered, with a Mapper, not faulted (spec 60_exceptions.md R228, R242). -/
def running (s : State) : Bool := s.connected && s.mapper.isSome && !s.faulted

/-- `k` master ticks (spec 60_exceptions.md R242). -/
def ticks : Nat → State → Result State
  | 0, s => .next s
  | k + 1, s => andThen (clock s) (ticks k)

/-- `k` CPU clocks (spec 40_step_and_addressing.md R100). -/
def cpuClocks : Nat → State → Result State
  | 0, s => .next s
  | k + 1, s => andThen (cpuClock s) (cpuClocks k)

/-- A safe run: some number of master ticks, none of which faults or is refused, ends in a state that meets
the claim's stop predicate and is not faulted: "a faulted state never satisfies it" (spec 60_exceptions.md
R236, R249, 00_scope.md R3, 92_eei_decisions.md D28). The predicate is tested in the first state and after
every master tick, not after whole instructions alone; the spec leaves open in which states of a run it is
tested, and this, with a run being one of `clock()` alone, is the model's choice (log 19). -/
def RunsTo (s : State) (stop : State → Prop) : Prop :=
  ∃ k t, ticks k s = .next t ∧ t.faulted = false ∧ stop t

end Sys2Proof.Machine
end

