-- ==== Sys2Proof/Certificates/Slice0/Obligations.lean ====
section
/-! DEFINITION. The statements for the provers. Each docstring names the rules of spec/ that it
formalises. Throughout, `exec i s` is the part of a step after the fetch: PC is already the address of
the byte after the instruction (log 11), and the cost of the instruction is added to `cycles`. Where a
statement gives the next state as `s` with some fields replaced, that is its frame too: every field that
is not named is unchanged, and `flagsBecome` says of every flag whether and how it changes. -/

open Sys2Proof Sys2Proof.Machine

/-! ### Loads, stores and transfers -/

/-- Spec R130, R131, R132: LDA, LDX and LDY load the operand byte, set Z and N from it, and change nothing
else; their encodings and costs. -/
def Obligations.LoadsCopyTheOperandByte : Prop :=
  aluForms .lda 0xA9#8 0xA5#8 0xB5#8 0xAD#8 0xBD#8 0xB9#8 0xA1#8 0xB1#8 ∧
  (∀ b w, hasForm (.ldx (.imm b)) [0xA2#8, b] 2 false ∧ hasForm (.ldx (.zp0 b)) [0xA6#8, b] 3 false ∧
    hasForm (.ldx (.zpy b)) [0xB6#8, b] 4 false ∧ hasForm (.ldx (.abs w)) [0xAE#8, loByte w, hiByte w] 4 false ∧
    hasForm (.ldx (.aby w)) [0xBE#8, loByte w, hiByte w] 4 true) ∧
  (∀ b w, hasForm (.ldy (.imm b)) [0xA0#8, b] 2 false ∧ hasForm (.ldy (.zp0 b)) [0xA4#8, b] 3 false ∧
    hasForm (.ldy (.zpx b)) [0xB4#8, b] 4 false ∧ hasForm (.ldy (.abs w)) [0xAC#8, loByte w, hiByte w] 4 false ∧
    hasForm (.ldy (.abx w)) [0xBC#8, loByte w, hiByte w] 4 true) ∧
  (∀ s o, operandReady s o.operand = true →
    ∃ p, exec (.lda o) s = .next { s with
        a := operandByte s o.operand
        p := p
        cycles := cyclesAfter s (.lda o) o.operand } ∧
      flagsBecome s.p p (znOf (operandByte s o.operand))) ∧
  (∀ s o, operandReady s o.operand = true →
    ∃ p, exec (.ldx o) s = .next { s with
        x := operandByte s o.operand
        p := p
        cycles := cyclesAfter s (.ldx o) o.operand } ∧
      flagsBecome s.p p (znOf (operandByte s o.operand))) ∧
  (∀ s o, operandReady s o.operand = true →
    ∃ p, exec (.ldy o) s = .next { s with
        y := operandByte s o.operand
        p := p
        cycles := cyclesAfter s (.ldy o) o.operand } ∧
      flagsBecome s.p p (znOf (operandByte s o.operand)))

/-- Spec R133, R134, R135: STA, STX and STY store the register at the operand's address: in RAM, hence in
all four mirrors, or nowhere, or as a bus fault, by the region; no flag changes; encodings and costs. -/
def Obligations.StoresWriteTheRegister : Prop :=
  (∀ b w, hasForm (.sta (.zp0 b)) [0x85#8, b] 3 false ∧ hasForm (.sta (.zpx b)) [0x95#8, b] 4 false ∧
    hasForm (.sta (.abs w)) [0x8D#8, loByte w, hiByte w] 4 false ∧
    hasForm (.sta (.abx w)) [0x9D#8, loByte w, hiByte w] 5 false ∧
    hasForm (.sta (.aby w)) [0x99#8, loByte w, hiByte w] 5 false ∧
    hasForm (.sta (.izx b)) [0x81#8, b] 6 false ∧ hasForm (.sta (.izy b)) [0x91#8, b] 6 false) ∧
  (∀ b w, hasForm (.stx (.zp0 b)) [0x86#8, b] 3 false ∧ hasForm (.stx (.zpy b)) [0x96#8, b] 4 false ∧
    hasForm (.stx (.abs w)) [0x8E#8, loByte w, hiByte w] 4 false) ∧
  (∀ b w, hasForm (.sty (.zp0 b)) [0x84#8, b] 3 false ∧ hasForm (.sty (.zpx b)) [0x94#8, b] 4 false ∧
    hasForm (.sty (.abs w)) [0x8C#8, loByte w, hiByte w] 4 false) ∧
  (∀ s o, storesByte (.sta o) o.operand s.a s) ∧
  (∀ s o, storesByte (.stx o) o.operand s.x s) ∧
  (∀ s o, storesByte (.sty o) o.operand s.y s)

/-- Spec R136 to R141: the six transfers copy one register to another; all but TXS set Z and N from the
value moved; encodings and costs. -/
def Obligations.TransfersCopyTheRegister : Prop :=
  (hasForm .tax [0xAA#8] 2 false ∧ hasForm .tay [0xA8#8] 2 false ∧ hasForm .txa [0x8A#8] 2 false ∧
    hasForm .tya [0x98#8] 2 false ∧ hasForm .tsx [0xBA#8] 2 false ∧ hasForm .txs [0x9A#8] 2 false) ∧
  ∀ s,
    (∃ p, exec .tax s = .next { s with x := s.a, p := p, cycles := s.cycles + 2 } ∧ flagsBecome s.p p (znOf s.a)) ∧
    (∃ p, exec .tay s = .next { s with y := s.a, p := p, cycles := s.cycles + 2 } ∧ flagsBecome s.p p (znOf s.a)) ∧
    (∃ p, exec .txa s = .next { s with a := s.x, p := p, cycles := s.cycles + 2 } ∧ flagsBecome s.p p (znOf s.x)) ∧
    (∃ p, exec .tya s = .next { s with a := s.y, p := p, cycles := s.cycles + 2 } ∧ flagsBecome s.p p (znOf s.y)) ∧
    (∃ p, exec .tsx s = .next { s with x := s.sp, p := p, cycles := s.cycles + 2 } ∧ flagsBecome s.p p (znOf s.sp)) ∧
    exec .txs s = .next { s with sp := s.x, cycles := s.cycles + 2 }

/-! ### Arithmetic and logic -/

/-- Spec R151, R152: ADC adds the operand byte and the carry to A, SBC subtracts the operand byte and the
borrow; carry, signed overflow, Z and N; SBC is ADC of the complement; encodings and costs. -/
def Obligations.AddAndSubtract : Prop :=
  aluForms .adc 0x69#8 0x65#8 0x75#8 0x6D#8 0x7D#8 0x79#8 0x61#8 0x71#8 ∧
  aluForms .sbc 0xE9#8 0xE5#8 0xF5#8 0xED#8 0xFD#8 0xF9#8 0xE1#8 0xF1#8 ∧
  (∀ (s : State) (o : AluOperand) (m : Byte) (r : Nat) (signed : Int), operandReady s o.operand = true →
    m = operandByte s o.operand → r = s.a.toNat + m.toNat + (s.flag .c).toNat →
    signed = s.a.toInt + m.toInt + (s.flag .c).toNat →
    ∃ p, exec (.adc o) s = .next { s with
        a := BitVec.ofNat 8 (r % 256)
        p := p
        cycles := cyclesAfter s (.adc o) o.operand } ∧
      flagsBecome s.p p ((.c, decide (r > 255)) :: (.v, decide (signed < -128 ∨ signed > 127)) ::
        znOf (BitVec.ofNat 8 (r % 256)))) ∧
  (∀ (s : State) (o : AluOperand) (m : Byte) (d signed : Int), operandReady s o.operand = true →
    m = operandByte s o.operand → d = (s.a.toNat : Int) - m.toNat - (1 - (s.flag .c).toNat) →
    signed = s.a.toInt - m.toInt - (1 - (s.flag .c).toNat) →
    ∃ p, exec (.sbc o) s = .next { s with
        a := BitVec.ofInt 8 d
        p := p
        cycles := cyclesAfter s (.sbc o) o.operand } ∧
      flagsBecome s.p p ((.c, decide (0 ≤ d)) :: (.v, decide (signed < -128 ∨ signed > 127)) ::
        znOf (BitVec.ofInt 8 d))) ∧
  ∀ s m, exec (.sbc (.imm m)) s = exec (.adc (.imm (m ^^^ 0xFF#8))) s

/-- Spec 42_arithmetic_logic.md section 1, R150 in part: the overflow formula is true exactly when A and M
have the same bit 7 and the result has the other, and exactly when the signed sum of A, M and the carry
lies outside -128 to 127; and the adder's effect on A and the other flags is the same whatever D is (the
spec's decision D22), which it keeps. -/
def Obligations.OverflowIsSignedOverflowWhateverDecimalIs : Prop :=
  (∀ (a m : Byte) (carry : Bool),
    (addOverflow a m carry = true ↔
      a.getLsbD 7 = m.getLsbD 7 ∧ (addResult a m carry).getLsbD 7 ≠ a.getLsbD 7) ∧
    (addOverflow a m carry = true ↔
      a.toInt + m.toInt + carry.toNat < -128 ∨ a.toInt + m.toInt + carry.toNat > 127)) ∧
  ∀ (s : State) (m : Byte) (d : Bool), (s.putFlag .d d).addCore m = (s.addCore m).putFlag .d d

/-- Spec R153, R154, R155: AND, ORA and EOR combine A with the operand byte bit by bit and set Z and N from
the new A, and change no other flag; encodings and costs. -/
def Obligations.LogicCombinesBitwise : Prop :=
  aluForms .and 0x29#8 0x25#8 0x35#8 0x2D#8 0x3D#8 0x39#8 0x21#8 0x31#8 ∧
  aluForms .ora 0x09#8 0x05#8 0x15#8 0x0D#8 0x1D#8 0x19#8 0x01#8 0x11#8 ∧
  aluForms .eor 0x49#8 0x45#8 0x55#8 0x4D#8 0x5D#8 0x59#8 0x41#8 0x51#8 ∧
  ∀ (s : State) (o : AluOperand), operandReady s o.operand = true →
    (∃ v p, exec (.and o) s = .next { s with a := v, p := p, cycles := cyclesAfter s (.and o) o.operand } ∧
      (∀ k, v.getLsbD k = (s.a.getLsbD k && (operandByte s o.operand).getLsbD k)) ∧
      flagsBecome s.p p (znOf v)) ∧
    (∃ v p, exec (.ora o) s = .next { s with a := v, p := p, cycles := cyclesAfter s (.ora o) o.operand } ∧
      (∀ k, v.getLsbD k = (s.a.getLsbD k || (operandByte s o.operand).getLsbD k)) ∧
      flagsBecome s.p p (znOf v)) ∧
    (∃ v p, exec (.eor o) s = .next { s with a := v, p := p, cycles := cyclesAfter s (.eor o) o.operand } ∧
      (∀ k, v.getLsbD k = (s.a.getLsbD k ^^ (operandByte s o.operand).getLsbD k)) ∧
      flagsBecome s.p p (znOf v))

/-- Spec R156: BIT sets Z from the and of A and the operand byte, N and V from bits 7 and 6 of the byte, and
changes nothing else; encodings and costs. -/
def Obligations.BitTestsTheOperand : Prop :=
  (∀ b w, hasForm (.bit (.zp0 b)) [0x24#8, b] 3 false ∧
    hasForm (.bit (.abs w)) [0x2C#8, loByte w, hiByte w] 4 false) ∧
  ∀ (s : State) (o : BitOperand), operandReady s o.operand = true →
    ∃ p, exec (.bit o) s = .next { s with p := p, cycles := cyclesAfter s (.bit o) o.operand } ∧
      flagsBecome s.p p [(.z, s.a &&& operandByte s o.operand == 0#8),
        (.n, (operandByte s o.operand).getLsbD 7), (.v, (operandByte s o.operand).getLsbD 6)]

/-- Spec R157 to R160: CMP, CPX and CPY compare A, X and Y with the operand byte: C iff the register is at
least the byte as unsigned numbers, Z iff equal, N is bit 7 of the difference; nothing else changes;
encodings and costs. -/
def Obligations.CompareSetsCarryZeroNegative : Prop :=
  aluForms .cmp 0xC9#8 0xC5#8 0xD5#8 0xCD#8 0xDD#8 0xD9#8 0xC1#8 0xD1#8 ∧
  (∀ b w, hasForm (.cpx (.imm b)) [0xE0#8, b] 2 false ∧ hasForm (.cpx (.zp0 b)) [0xE4#8, b] 3 false ∧
    hasForm (.cpx (.abs w)) [0xEC#8, loByte w, hiByte w] 4 false) ∧
  (∀ b w, hasForm (.cpy (.imm b)) [0xC0#8, b] 2 false ∧ hasForm (.cpy (.zp0 b)) [0xC4#8, b] 3 false ∧
    hasForm (.cpy (.abs w)) [0xCC#8, loByte w, hiByte w] 4 false) ∧
  (∀ (s : State) (o : AluOperand) (m : Byte), operandReady s o.operand = true → m = operandByte s o.operand →
    ∃ p, exec (.cmp o) s = .next { s with p := p, cycles := cyclesAfter s (.cmp o) o.operand } ∧
      flagsBecome s.p p [(.c, decide (s.a.toNat ≥ m.toNat)), (.z, decide (s.a = m)),
        (.n, decide ((s.a.toNat + 256 - m.toNat) % 256 ≥ 128))]) ∧
  (∀ (s : State) (o : CpxOperand) (m : Byte), operandReady s o.operand = true → m = operandByte s o.operand →
    ∃ p, exec (.cpx o) s = .next { s with p := p, cycles := cyclesAfter s (.cpx o) o.operand } ∧
      flagsBecome s.p p [(.c, decide (s.x.toNat ≥ m.toNat)), (.z, decide (s.x = m)),
        (.n, decide ((s.x.toNat + 256 - m.toNat) % 256 ≥ 128))]) ∧
  ∀ (s : State) (o : CpxOperand) (m : Byte), operandReady s o.operand = true → m = operandByte s o.operand →
    ∃ p, exec (.cpy o) s = .next { s with p := p, cycles := cyclesAfter s (.cpy o) o.operand } ∧
      flagsBecome s.p p [(.c, decide (s.y.toNat ≥ m.toNat)), (.z, decide (s.y = m)),
        (.n, decide ((s.y.toNat + 256 - m.toNat) % 256 ≥ 128))]

/-- Spec R161, R162: INC and DEC write the operand byte plus or minus one, modulo 256, back to its address,
set Z and N from the new byte even where the write is discarded, and change no other flag; encodings and
costs. -/
def Obligations.IncrementAndDecrementMemory : Prop :=
  rmwForms .inc 0xE6#8 0xF6#8 0xEE#8 0xFE#8 ∧
  rmwForms .dec 0xC6#8 0xD6#8 0xCE#8 0xDE#8 ∧
  ∀ (s : State) (o : RmwOperand),
    modifiesByte (.inc o) o.operand (fun v => BitVec.ofNat 8 ((v.toNat + 1) % 256))
      (fun v => znOf (BitVec.ofNat 8 ((v.toNat + 1) % 256))) s ∧
    modifiesByte (.dec o) o.operand (fun v => BitVec.ofNat 8 ((v.toNat + 255) % 256))
      (fun v => znOf (BitVec.ofNat 8 ((v.toNat + 255) % 256))) s

/-- Spec R163 to R166: INX, INY, DEX and DEY step an index register by one modulo 256, set Z and N from it,
and change nothing else; encodings and costs. -/
def Obligations.IncrementAndDecrementIndex : Prop :=
  (hasForm .inx [0xE8#8] 2 false ∧ hasForm .iny [0xC8#8] 2 false ∧ hasForm .dex [0xCA#8] 2 false ∧
    hasForm .dey [0x88#8] 2 false) ∧
  ∀ s : State,
    (∃ v p, exec .inx s = .next { s with x := v, p := p, cycles := s.cycles + 2 } ∧
      v.toNat = (s.x.toNat + 1) % 256 ∧ flagsBecome s.p p (znOf v)) ∧
    (∃ v p, exec .iny s = .next { s with y := v, p := p, cycles := s.cycles + 2 } ∧
      v.toNat = (s.y.toNat + 1) % 256 ∧ flagsBecome s.p p (znOf v)) ∧
    (∃ v p, exec .dex s = .next { s with x := v, p := p, cycles := s.cycles + 2 } ∧
      v.toNat = (s.x.toNat + 255) % 256 ∧ flagsBecome s.p p (znOf v)) ∧
    (∃ v p, exec .dey s = .next { s with y := v, p := p, cycles := s.cycles + 2 } ∧
      v.toNat = (s.y.toNat + 255) % 256 ∧ flagsBecome s.p p (znOf v))

/-! ### Shifts and rotates -/

/-- Spec R170, R171, R172: ASL and LSR, on A or on a memory byte: the byte doubled modulo 256 or halved, C
from the bit shifted out, Z and N from the result; encodings and costs. -/
def Obligations.ShiftsMoveOneBit : Prop :=
  hasForm (.asl .acc) [0x0A#8] 2 false ∧ rmwForms (fun o => .asl (.mem o)) 0x06#8 0x16#8 0x0E#8 0x1E#8 ∧
  hasForm (.lsr .acc) [0x4A#8] 2 false ∧ rmwForms (fun o => .lsr (.mem o)) 0x46#8 0x56#8 0x4E#8 0x5E#8 ∧
  ∀ s : State,
    shifts .asl (fun v _ => BitVec.ofNat 8 (2 * v.toNat % 256)) (fun v => decide (v.toNat ≥ 128)) s ∧
    shifts .lsr (fun v _ => BitVec.ofNat 8 (v.toNat / 2)) (fun v => decide (v.toNat % 2 = 1)) s

/-- Spec R170, R173, R174: ROL and ROR, on A or on a memory byte: as the shifts, with the prior carry in the
vacated bit; nine ROLs of A restore A and C; encodings and costs. -/
def Obligations.RotatesMoveThroughCarry : Prop :=
  hasForm (.rol .acc) [0x2A#8] 2 false ∧ rmwForms (fun o => .rol (.mem o)) 0x26#8 0x36#8 0x2E#8 0x3E#8 ∧
  hasForm (.ror .acc) [0x6A#8] 2 false ∧ rmwForms (fun o => .ror (.mem o)) 0x66#8 0x76#8 0x6E#8 0x7E#8 ∧
  (∀ s : State,
    shifts .rol (fun v c => BitVec.ofNat 8 (2 * v.toNat % 256 + c.toNat)) (fun v => decide (v.toNat ≥ 128)) s ∧
    shifts .ror (fun v c => BitVec.ofNat 8 (v.toNat / 2 + 128 * c.toNat)) (fun v => decide (v.toNat % 2 = 1)) s) ∧
  ∀ s : State, ∃ t, (Nat.repeat (fun r => andThen r (exec (.rol .acc))) 9 (.next s)) = .next t ∧
    t.a = s.a ∧ t.flag .c = s.flag .c

/-! ### Branches, jumps and subroutines -/

/-- Spec 44_branch_jump.md section 1, R180 to R188: each of the eight branches is taken exactly when its
flag has its polarity; the target, the costs 2, 3 and 4, and that nothing else changes. The base of the
page test and the wrap of PC are the spec's decisions D36 and D21. -/
def Obligations.BranchesFollowTheirFlag : Prop :=
  branches .bcc 0x90#8 .c false ∧ branches .bcs 0xB0#8 .c true ∧
  branches .beq 0xF0#8 .z true ∧ branches .bne 0xD0#8 .z false ∧
  branches .bmi 0x30#8 .n true ∧ branches .bpl 0x10#8 .n false ∧
  branches .bvc 0x50#8 .v false ∧ branches .bvs 0x70#8 .v true

/-- Spec R189: JMP loads PC with the operand, or with the word at the pointer, whose high byte comes from
the start of the same page when the pointer's low byte is 0xFF; nothing else changes; encodings and
costs. -/
def Obligations.JumpLoadsPc : Prop :=
  (∀ w, hasForm (.jmp (.abs w)) [0x4C#8, loByte w, hiByte w] 3 false ∧
    hasForm (.jmp (.ind w)) [0x6C#8, loByte w, hiByte w] 5 false) ∧
  (∀ s w, exec (.jmp (.abs w)) s = .next { s with pc := w, cycles := s.cycles + 3 }) ∧
  ∀ (s : State) (ptr high : Word), accessible s ptr = true → accessible s high = true →
    high.toNat = (if ptr.toNat % 256 = 255 then ptr.toNat - 255 else ptr.toNat + 1) →
    exec (.jmp (.ind ptr)) s =
      .next { s with pc := mkWord (byteAt s high) (byteAt s ptr), cycles := s.cycles + 5 }

/-- Spec 44_branch_jump.md section 3, R190, R191 (their stack details are the spec's decisions D10 and D31):
JSR pushes the address of its last byte, high byte first, and jumps; RTS pulls a word and goes on one past
it; encodings and costs. -/
def Obligations.CallAndReturn : Prop :=
  (∀ w, hasForm (.jsr w) [0x20#8, loByte w, hiByte w] 6 false) ∧ hasForm .rts [0x60#8] 6 false ∧
  (∀ (s : State) (w : Word), exec (.jsr w) s = .next { s with
    ram := (s.ram.write (0x100 + s.sp.toNat) (hiByte (s.pc - 1))).write (0x100 + (s.sp - 1).toNat) (loByte (s.pc - 1))
    sp := s.sp - 2
    pc := w
    cycles := s.cycles + 6 }) ∧
  ∀ s : State, exec .rts s = .next { s with
    sp := s.sp + 2
    pc := mkWord (s.ram.read (0x100 + (s.sp + 2).toNat)) (s.ram.read (0x100 + (s.sp + 1).toNat)) + 1
    cycles := s.cycles + 6 }

/-- Spec 44_branch_jump.md section 3 (R191: "It undoes rule R190"): an RTS that finds the stack as a JSR left
it goes on at the instruction after the JSR, with S as before it, whatever S was. -/
def Obligations.RtsUndoesJsr : Prop :=
  ∀ (s t u : State) (w : Word), exec (.jsr w) s = .next t → u.ram = t.ram → u.sp = t.sp →
    ∃ r, exec .rts u = .next r ∧ r.pc = s.pc ∧ r.sp = s.sp ∧ r.ram = t.ram ∧ r.p = u.p

/-! ### Stack, flag and system instructions -/

/-- Spec R200 to R203: PHA pushes A, PHP pushes P with Break and Unused set, PLA pulls A and sets Z and N,
PLP pulls P with Unused set; nothing else changes; encodings and costs. -/
def Obligations.StackInstructions : Prop :=
  (hasForm .pha [0x48#8] 3 false ∧ hasForm .php [0x08#8] 3 false ∧ hasForm .pla [0x68#8] 4 false ∧
    hasForm .plp [0x28#8] 4 false) ∧
  ∀ s : State,
    exec .pha s = .next { s with
      ram := s.ram.write (0x100 + s.sp.toNat) s.a
      sp := s.sp - 1
      cycles := s.cycles + 3 } ∧
    (∃ q, exec .php s = .next { s with
        ram := s.ram.write (0x100 + s.sp.toNat) q
        sp := s.sp - 1
        cycles := s.cycles + 3 } ∧ flagsBecome s.p q [(.b, true), (.u, true)]) ∧
    (∃ p, exec .pla s = .next { s with
        a := s.ram.read (0x100 + (s.sp + 1).toNat)
        sp := s.sp + 1
        p := p
        cycles := s.cycles + 4 } ∧ flagsBecome s.p p (znOf (s.ram.read (0x100 + (s.sp + 1).toNat)))) ∧
    ∃ p, exec .plp s = .next { s with
        sp := s.sp + 1
        p := p
        cycles := s.cycles + 4 } ∧ flagsBecome (s.ram.read (0x100 + (s.sp + 1).toNat)) p [(.u, true)]

/-- Spec R204 to R211: each of the seven flag instructions writes its one flag and nothing else; NOP does
nothing; encodings and costs. -/
def Obligations.FlagInstructionsAndNop : Prop :=
  (hasForm .clc [0x18#8] 2 false ∧ hasForm .sec [0x38#8] 2 false ∧ hasForm .cli [0x58#8] 2 false ∧
    hasForm .sei [0x78#8] 2 false ∧ hasForm .cld [0xD8#8] 2 false ∧ hasForm .sed [0xF8#8] 2 false ∧
    hasForm .clv [0xB8#8] 2 false ∧ hasForm .nop [0xEA#8] 2 false) ∧
  ∀ s : State,
    (∃ p, exec .clc s = .next { s with p := p, cycles := s.cycles + 2 } ∧ flagsBecome s.p p [(.c, false)]) ∧
    (∃ p, exec .sec s = .next { s with p := p, cycles := s.cycles + 2 } ∧ flagsBecome s.p p [(.c, true)]) ∧
    (∃ p, exec .cli s = .next { s with p := p, cycles := s.cycles + 2 } ∧ flagsBecome s.p p [(.i, false)]) ∧
    (∃ p, exec .sei s = .next { s with p := p, cycles := s.cycles + 2 } ∧ flagsBecome s.p p [(.i, true)]) ∧
    (∃ p, exec .cld s = .next { s with p := p, cycles := s.cycles + 2 } ∧ flagsBecome s.p p [(.d, false)]) ∧
    (∃ p, exec .sed s = .next { s with p := p, cycles := s.cycles + 2 } ∧ flagsBecome s.p p [(.d, true)]) ∧
    (∃ p, exec .clv s = .next { s with p := p, cycles := s.cycles + 2 } ∧ flagsBecome s.p p [(.v, false)]) ∧
    exec .nop s = .next { s with cycles := s.cycles + 2 }

/-- Spec 45_stack_flags_system.md section 5 and 30_encoding.md section 4 (the spec's decision D8): each of the
105 illegal bytes is a one-byte instruction that changes nothing but `cycles`, by the open parameter
ILLEGAL_CYCLES, which is at least 1 and 2 by default. -/
def Obligations.IllegalOpcodesDoNothing : Prop :=
  illegalOpcodes.length = 105 ∧ illegalOpcodes.Nodup ∧
  (∀ op b1 b2, (isIllegalOpcode op = true ↔ decodeBytes op b1 b2 = .ill op)) ∧
  ∀ op, isIllegalOpcode op = true →
    encode (.ill op) = [op] ∧ illegalCycles Params.default op = 2 ∧
    (∀ ps, 1 ≤ illegalCycles ps op) ∧
    ∀ s : State, exec (.ill op) s = .next { s with cycles := s.cycles + illegalCycles s.params op }

/-- Spec 45_stack_flags_system.md section 4, R212 (the pushed PC, the pushed I and the live B are the spec's
decisions D11, D12 and D13): BRK pushes PC + BRK_PAD, high byte first, then P with I, B and U set, sets I,
and loads PC from 0xFFFE, whatever I was; its encoding and cost. -/
def Obligations.BreakTakesTheSharedVector : Prop :=
  hasForm .brk [0x00#8] 7 false ∧
  (∀ (s : State) (m : Mapper), s.mapper = some m →
    ∃ p q, exec .brk s = .next { s with
        ram := framePushed s (s.pc + BitVec.ofNat 16 s.params.brkPad.val) q
        sp := s.sp - 3
        p := p
        pc := vectorWord m 0xFFFE#16
        cycles := s.cycles + 7 } ∧
      flagsBecome s.p p [(.i, true)] ∧ flagsBecome s.p q [(.i, true), (.b, true), (.u, true)]) ∧
  ∀ s : State, s.mapper = none → exec .brk s = .refused .noMapper

/-- Spec 45_stack_flags_system.md section 4, R213 (its order is the spec's decision D31): RTI pulls P with
Unused set, then PC low, then PC high, and adds nothing; its encoding and cost. -/
def Obligations.ReturnFromInterruptPullsStatusAndPc : Prop :=
  hasForm .rti [0x40#8] 6 false ∧
  ∀ s : State, ∃ p, exec .rti s = .next { s with
      sp := s.sp + 3
      p := p
      pc := mkWord (s.ram.read (0x100 + (s.sp + 3).toNat)) (s.ram.read (0x100 + (s.sp + 2).toNat))
      cycles := s.cycles + 6 } ∧
    flagsBecome (s.ram.read (0x100 + (s.sp + 1).toNat)) p [(.u, true)]

/-! ### Interrupts -/

/-- Spec R222: `irq()` changes nothing while I is set; else it pushes PC, high byte first, and P with B clear
and U set, sets I, loads PC from 0xFFFE and sets `cycles` to 7, after which 7 CPU clocks only decrement and
the 8th steps. -/
def Obligations.MaskableInterrupt : Prop :=
  (∀ s : State, running s = true → s.flag .i = true → hostOp .irq s = .next (s, .none)) ∧
  (∀ (s : State) (m : Mapper), running s = true → s.mapper = some m → s.flag .i = false →
    ∃ p q, hostOp .irq s = .next ({ s with
        ram := framePushed s s.pc q
        sp := s.sp - 3
        p := p
        pc := vectorWord m 0xFFFE#16
        cycles := 7 }, .none) ∧
      flagsBecome s.p p [(.i, true)] ∧ flagsBecome s.p q [(.b, false), (.u, true)]) ∧
  ∀ t : State, t.cycles = 7 →
    (∀ k, k ≤ 7 → cpuClocks k t = .next { t with cycles := 7 - k }) ∧
    cpuClocks 8 t = andThen (cpuStep { t with cycles := 0 }) fun u => .next { u with cycles := u.cycles - 1 }

/-- Spec 60_exceptions.md section 2, R223 (that it sets I is the spec's decision D38): `nmi()` does what a taken
`irq()` does, whatever I is, with the vector 0xFFFA and `cycles` set to 8; the pushed byte carries I. -/
def Obligations.NonMaskableInterrupt : Prop :=
  ∀ (s : State) (m : Mapper), running s = true → s.mapper = some m →
    ∃ p q, hostOp .nmi s = .next ({ s with
        ram := framePushed s s.pc q
        sp := s.sp - 3
        p := p
        pc := vectorWord m 0xFFFA#16
        cycles := 8 }, .none) ∧
      flagsBecome s.p p [(.i, true)] ∧ flagsBecome s.p q [(.b, false), (.u, true)]

/-- Spec 60_exceptions.md section 2, R225 (which the spec marks as derived): after the interrupt sequence the
status byte, PC low and PC high lie at S + 1, S + 2 and S + 3 in page 1, wrapping in the page, every other
byte of RAM is unchanged, and so are A, X, Y, every flag but I, and `cycles` (which its caller sets). -/
def Obligations.InterruptFrameLiesAboveTheStackPointer : Prop :=
  ∀ (s t : State) (vector returnPc : Word) (status : Byte),
    takeInterrupt s vector returnPc status = .next t →
    t.sp = s.sp - 3 ∧
    t.ram.read (0x100 + (t.sp + 1).toNat) = status ∧
    t.ram.read (0x100 + (t.sp + 2).toNat) = loByte returnPc ∧
    t.ram.read (0x100 + (t.sp + 3).toNat) = hiByte returnPc ∧
    (∀ k, k ≠ 0x100 + (t.sp + 1).toNat → k ≠ 0x100 + (t.sp + 2).toNat → k ≠ 0x100 + (t.sp + 3).toNat →
      t.ram.read k = s.ram.read k) ∧
    t.a = s.a ∧ t.x = s.x ∧ t.y = s.y ∧ t.flag .i = true ∧ (∀ f, f ≠ .i → t.flag f = s.flag f) ∧
    t.cycles = s.cycles ∧ t.mclk = s.mclk ∧ t.mapper = s.mapper ∧ t.params = s.params

/-- Spec 60_exceptions.md section 6 (R231) and 45_stack_flags_system.md R213: an RTI right after an interrupt
resumes where it was taken. PC, S, A, X and Y are as before; after `irq()` and `nmi()` so is every flag but
B, which is clear; after BRK the PC is the one pushed and I and B are set. -/
def Obligations.RtiResumesWhatWasInterrupted : Prop :=
  (∀ (s t : State) (r : HostResult) (op : HostOp), s.flag .u = true →
    (op = .irq ∧ s.flag .i = false ∨ op = .nmi) → hostOp op s = .next (t, r) →
    ∃ u, exec .rti t = .next u ∧ u.pc = s.pc ∧ u.sp = s.sp ∧ u.a = s.a ∧ u.x = s.x ∧ u.y = s.y ∧
      flagsBecome s.p u.p [(.b, false)]) ∧
  ∀ s t : State, s.flag .u = true → exec .brk s = .next t →
    ∃ u, exec .rti t = .next u ∧ u.pc = s.pc + BitVec.ofNat 16 s.params.brkPad.val ∧ u.sp = s.sp ∧
      u.a = s.a ∧ u.x = s.x ∧ u.y = s.y ∧ flagsBecome s.p u.p [(.i, true), (.b, true)]

/-- Spec 60_exceptions.md section 4, R229 (the order is the host's duty, the spec's decision D15): an `irq()`
that follows an `nmi()` before the next CPU clock changes nothing. -/
def Obligations.IrqAfterNmiDoesNothing : Prop :=
  ∀ (s t : State) (r : HostResult), hostOp .nmi s = .next (t, r) → hostOp .irq t = .next (t, .none)

/-! ### Power and reset -/

/-- Spec R261, R262, with `power()` of 70_reset_and_hazards.md section 1: both run the reset sequence: PC from
0xFFFC, P = 0x20, S = 0xFD, A = X = Y = 0, `cycles` = 8, `mclk` = 0; nothing else changes, `connected` apart,
which `power()` sets; with Mapper 0 the vector's bytes are at the stated places of program ROM; with `mclk` at
0 the next CPU clock is the third master tick; then 8 CPU clocks only decrement and the 9th steps. -/
def Obligations.PowerAndResetRunTheResetSequence : Prop :=
  (∀ (s : State) (m : Mapper), s.faulted = false → s.mapper = some m →
    hostOp .power s = .next ({ s with
      pc := vectorWord m 0xFFFC#16
      p := 0x20#8
      sp := 0xFD#8
      a := 0x00#8
      x := 0x00#8
      y := 0x00#8
      cycles := 8
      mclk := 0
      connected := true }, .none) ∧
    (s.connected = true → hostOp .reset s = hostOp .power s)) ∧
  (∀ c : Cartridge, vectorWord (.direct c) 0xFFFC#16 =
    if c.prgBanks = 1 then mkWord (c.prg.read 0x3FFD) (c.prg.read 0x3FFC)
    else mkWord (c.prg.read 0x7FFD) (c.prg.read 0x7FFC)) ∧
  (∀ f, getFlag 0x20#8 f = decide (f = .u)) ∧
  (∀ t : State, running t = true → t.mclk = 0 →
    ticks 2 t = .next { t with mclk := 2 } ∧ ticks 3 t = cpuClock { t with mclk := 3 }) ∧
  ∀ t : State, t.cycles = 8 →
    (∀ k, k ≤ 8 → cpuClocks k t = .next { t with cycles := 8 - k }) ∧
    cpuClocks 9 t = andThen (cpuStep { t with cycles := 0 }) fun u => .next { u with cycles := u.cycles - 1 }

/-- Spec 10_state.md section 9 and R30, and the model's own choices of log 2, log 3 and log 6: `State.reset` is
what `power()` makes of a newly built core with RAM_INIT all zero, the default parameters and the blank
cartridge inserted; and it satisfies the invariant of the core. -/
def Obligations.ResetStateMeetsTheInvariant : Prop :=
  Inv State.reset ∧ running State.reset = true ∧ State.reset.ram = [] ∧ State.reset.sp = 0xFD#8 ∧
  State.reset.p = 0x20#8 ∧ State.reset.cycles = 8 ∧
  hostRun [.insert Cartridge.blank, .power] (State.built Params.default []) = .next State.reset

/-! ### The Bus and the Mapper -/

/-- Spec R41, R42, R43, R46, R47, R49, R60: the Bus decodes every address into one of five regions by the
address alone, for reads and for writes, and the host's debug accesses are the same operations. -/
def Obligations.BusFollowsTheDecodeTable : Prop :=
  (∀ (s : State) (a : Word) (v : Byte),
    (a.toNat ≤ 0x1FFF → busRead s a = .next (s.ram.read (a.toNat % 2048)) ∧
      busWrite s a v = .next { s with ram := s.ram.write (a.toNat % 2048) v }) ∧
    (0x2000 ≤ a.toNat → a.toNat ≤ 0x4017 → busRead s a = .next 0x00#8 ∧ busWrite s a v = .next s) ∧
    (0x4018 ≤ a.toNat → a.toNat ≤ 0x401F → busRead s a = .fault (.busFault a) ∧
      busWrite s a v = .fault (.busFault a)) ∧
    (0x4020 ≤ a.toNat →
      (s.mapper = none → busRead s a = .refused .noMapper ∧ busWrite s a v = .refused .noMapper) ∧
      ∀ m, s.mapper = some m → busRead s a = .next (m.cpuRead a) ∧ busWrite s a v = .next s ∧
        m.cpuWrite a v = m)) ∧
  ∀ (s : State) (a : Word) (v : Byte) (readOnly : Bool), s.faulted = false →
    (hostOp (.read a readOnly) s = andThen (busRead s a) fun b => .next (s, .byte b)) ∧
    (hostOp (.write a v) s = andThen (busWrite s a v) fun t => .next (t, .none))

/-- Spec R48: any access to 0x4018-0x401F is a bus fault: from the CPU, an opcode fetch among them, and from
the host's debug operations, a word whose second byte alone lies there among them; stack accesses and vector
reads cannot reach the region. The one word read that is refused and so makes no access, `read16(0x401F)`
without a Mapper, is in `RefusedOperations`. -/
def Obligations.DisabledRegionFaults : Prop :=
  (∀ (s : State) (a : Word) (v : Byte) (readOnly : Bool), 0x4018 ≤ a.toNat → a.toNat ≤ 0x401F →
    busRead s a = .fault (.busFault a) ∧ busWrite s a v = .fault (.busFault a) ∧
    (s.faulted = false → hostOp (.read a readOnly) s = .fault (.busFault a) ∧
      hostOp (.write a v) s = .fault (.busFault a) ∧
      (a.toNat ≠ 0x401F ∨ s.mapper ≠ none → hostOp (.read16 a readOnly) s = .fault (.busFault a)))) ∧
  (∀ (s : State) (readOnly : Bool), s.faulted = false →
    hostOp (.read16 0x4017#16 readOnly) s = .fault (.busFault 0x4018#16)) ∧
  (∀ (s : State) (k : Nat) (op : Byte), running s = true → k ≤ (entry op).mode.operandBytes →
    (0 < k → busRead s s.pc = .next op) → (1 < k → accessible s (s.pc + 1) = true) →
    region (s.pc + BitVec.ofNat 16 k) = .disabled →
    step s = .fault (.busFault (s.pc + BitVec.ofNat 16 k))) ∧
  (∀ sp, region (stackAddress sp) = .ram) ∧
  region nmiVector = .cartridge ∧ region (nmiVector + 1) = .cartridge ∧
  region resetVector = .cartridge ∧ region (resetVector + 1) = .cartridge ∧
  region irqVector = .cartridge ∧ region (irqVector + 1) = .cartridge

/-- Spec R45: a byte written to RAM is read back at all four mirrors of its address, and no other address
reads differently. -/
def Obligations.RamIsMirrored : Prop :=
  ∀ (s : State) (a : Word) (v : Byte), a.toNat ≤ 0x1FFF →
    ∃ t, busWrite s a v = .next t ∧
      (∀ b ∈ [a, a ^^^ 0x0800#16, a ^^^ 0x1000#16, a ^^^ 0x1800#16], busRead t b = .next v) ∧
      ∀ b : Word, ¬ (b.toNat ≤ 0x1FFF ∧ b.toNat % 2048 = a.toNat % 2048) → busRead t b = busRead s b

/-- Spec 20_memory.md section 2, R44 (the wrap at 0xFFFF is the spec's decision D21): a 16-bit read is two byte
reads, low byte first, the second at the next address modulo 65,536; each is decoded on its own. -/
def Obligations.WordReadsAreLittleEndian : Prop :=
  (∀ (s : State) (a b : Word) (lo hi : Byte), b.toNat = (a.toNat + 1) % 65536 → busRead s a = .next lo →
    busRead s b = .next hi → ∃ w, busRead16 s a = .next w ∧ w.toNat = hi.toNat * 256 + lo.toNat) ∧
  ∀ (s : State) (a b : Word) (f : Fault), b.toNat = (a.toNat + 1) % 65536 →
    (busRead s a = .fault f → busRead16 s a = .fault f) ∧
    (accessible s a = true → busRead s b = .fault f → busRead16 s a = .fault f)

/-- Spec 20_memory.md section 6, R59 (the mask below 0x8000 is the spec's decision D19): Mapper 0 reads program
ROM at the address masked by 0x3FFF with one program bank, by 0x7FFF with more, so with one bank 0x8000 and
0xC000 read the same bytes. -/
def Obligations.MapperZeroReadsProgramRom : Prop :=
  ∀ (c : Cartridge) (a : Word),
    (c.prgBanks = 1 → (Mapper.direct c).cpuRead a = c.prg.read (a.toNat % 0x4000)) ∧
    (2 ≤ c.prgBanks → (Mapper.direct c).cpuRead a = c.prg.read (a.toNat % 0x8000)) ∧
    (c.prgBanks = 1 → 0x8000 ≤ a.toNat → a.toNat ≤ 0xBFFF →
      (Mapper.direct c).cpuRead (a + 0x4000#16) = (Mapper.direct c).cpuRead a)

/-- Spec 20_memory.md section 6, R61, R62 (the refusals are the spec's decision D26): the graphics port indexes
the graphics memory without a mask up to 0x1FFF, writes it only when the cartridge has no graphics bank, and
is refused above. -/
def Obligations.GraphicsPort : Prop :=
  ∀ (s : State) (c : Cartridge) (a : Word) (v : Byte), s.faulted = false → s.mapper = some (.direct c) →
    (a.toNat ≤ 0x1FFF →
      hostOp (.graphicsRead a) s = .next (s, .byte (c.chr.read a.toNat)) ∧
      (c.chrBanks ≠ 0 → hostOp (.graphicsWrite a v) s = .next (s, .none)) ∧
      (c.chrBanks = 0 → ∃ m, hostOp (.graphicsWrite a v) s =
          .next ({ s with mapper := some (.direct { c with chr := m }) }, .none) ∧
        ∀ k, m.read k = if k = a.toNat then v else c.chr.read k)) ∧
    (0x1FFF < a.toNat → hostOp (.graphicsRead a) s = .refused .graphicsOutOfRange ∧
      hostOp (.graphicsWrite a v) s = .refused .graphicsOutOfRange)

/-- Spec 20_memory.md section 5, R56, R57 (when it is allowed, and for which records, is the spec's decision
D18): `insert` installs the Mapper of a registered selector and reports success, changes nothing and reports
failure for another selector, and is refused when the slot is full, after `power()`, or for a record that is
not well-formed. By default selector 0 alone is registered. The model's choices: the full slot and the powered
core are the reason named before the record (log 14); a record without a program bank is refused under
every selector whose Mapper is the direct-mapped one, not under selector 0 alone (log 9); a well-formed record
has its arrays in canonical form (log 4). -/
def Obligations.InsertFillsTheSlotOnce : Prop :=
  ∀ (s : State) (c : Cartridge), s.faulted = false →
    (s.mapper = none → s.connected = false → c.wf = true → registered s.params c.mapperId = some .direct →
      c.prgBanks ≠ 0 → hostOp (.insert c) s = .next ({ s with mapper := some (.direct c) }, .inserted true)) ∧
    (s.mapper = none → s.connected = false → c.wf = true → registered s.params c.mapperId = none →
      (c.mapperId = 0 → c.prgBanks ≠ 0) → hostOp (.insert c) s = .next (s, .inserted false)) ∧
    (s.mapper ≠ none ∨ s.connected = true → hostOp (.insert c) s = .refused .insertNotAllowed) ∧
    (s.mapper = none → s.connected = false →
      (c.wf = false ∨ c.prgBanks = 0 ∧ (c.mapperId = 0 ∨ registered s.params c.mapperId = some .direct)) →
      hostOp (.insert c) s = .refused .recordNotWellFormed) ∧
    (∀ n, registered Params.default n = if n = 0 then some .direct else none)

/-- Spec 10_state.md sections 5 to 7, R23, R24, R25, R27 (finality of the fault is the spec's decision D16): no
host operation changes the parameters, takes the Mapper out, changes its record but for graphics RAM,
disconnects the core, or clears the fault mark. -/
def Obligations.InstalledCartridgeIsImmutable : Prop :=
  ∀ (op : HostOp) (s t : State) (r : HostResult), hostOp op s = .next (t, r) →
    t.params = s.params ∧ t.faulted = s.faulted ∧ (s.connected = true → t.connected = true) ∧
    ∀ c, s.mapper = some (.direct c) →
      ∃ m, t.mapper = some (.direct { c with chr := m }) ∧
        (m = c.chr ∨ c.chrBanks = 0 ∧ ∃ a v, op = .graphicsWrite a v)

/-- Spec 60_exceptions.md section 9, R238 and 10_state.md R27, R30 (the spec's decisions D16, D17 and D25): what
is refused: everything once faulted; before `power()` whatever reads the CPU; without a Mapper `power()` and
cartridge accesses. The model's choices: which reason is named when several preconditions fail, the fault mark
first and then the missing `power()` (log 14); and that a word read with a byte in cartridge space is refused
without a Mapper although its first byte would fault (log 18). -/
def Obligations.RefusedOperations : Prop :=
  (∀ (op : HostOp) (s : State), s.faulted = true → hostOp op s = .refused .coreFaulted) ∧
  (∀ s : State, s.faulted = true → step s = .refused .coreFaulted) ∧
  (∀ s : State, s.faulted = false → s.connected = false →
    (∀ op ∈ [HostOp.clock, .reset, .irq, .nmi, .registers, .disassembly], hostOp op s = .refused .notPowered) ∧
    step s = .refused .notPowered) ∧
  ∀ (s : State) (a : Word) (v : Byte) (readOnly : Bool), s.faulted = false → s.mapper = none →
    hostOp .power s = .refused .noMapper ∧
    (0x4020 ≤ a.toNat → hostOp (.read a readOnly) s = .refused .noMapper ∧
      hostOp (.write a v) s = .refused .noMapper) ∧
    (0x401F ≤ a.toNat → hostOp (.read16 a readOnly) s = .refused .noMapper)

/-- Spec 60_exceptions.md section 14, R247, R248: the register accessor gives A, X, Y, S, PC and all of P and changes nothing;
the disassembly accessor gives nothing while `cycles > 0`, else the instruction at PC, and changes nothing
(what stands for the line is the model's choice, log 13). -/
def Obligations.AccessorsOnlyRead : Prop :=
  ∀ s : State, running s = true →
    hostOp .registers s = .next (s, .registers s.a s.x s.y s.sp s.pc s.p) ∧
    (0 < s.cycles → hostOp .disassembly s = .next (s, .line none)) ∧
    ∀ i t, s.cycles = 0 → fetch s = .next (i, t) → hostOp .disassembly s = .next (s, .line (some i))

/-! ### Addressing modes and fetch -/

/-- Spec R106, R108, R109, R110, R111: the modes that never cross a page: an immediate's address is that of its
own byte, the one before PC; the zero-page modes stay in page 0; an absolute operand is the address; and how
many bytes each consumes. That the value of an immediate is the byte the fetch read is read from R106 by
inference (log 7, DEDUCED). -/
def Obligations.ModesThatNeverCross : Prop :=
  ∀ (s : State) (b : Byte) (w : Word),
    ((resolve s (.imm b)).addr + 1 = s.pc ∧ (resolve s (.imm b)).crossed = false ∧
      operandValue s (.imm b) = .next b ∧ (Operand.imm b).bytes = [b]) ∧
    ((resolve s (.zp0 b)).addr.toNat = b.toNat ∧ (resolve s (.zp0 b)).crossed = false ∧
      (Operand.zp0 b).bytes = [b]) ∧
    ((resolve s (.zpx b)).addr.toNat = (b.toNat + s.x.toNat) % 256 ∧ (resolve s (.zpx b)).crossed = false ∧
      (Operand.zpx b).bytes = [b]) ∧
    ((resolve s (.zpy b)).addr.toNat = (b.toNat + s.y.toNat) % 256 ∧ (resolve s (.zpy b)).crossed = false ∧
      (Operand.zpy b).bytes = [b]) ∧
    ((resolve s (.abs w)).addr = w ∧ (resolve s (.abs w)).crossed = false ∧
      ∃ lo hi : Byte, (Operand.abs w).bytes = [lo, hi] ∧ w.toNat = hi.toNat * 256 + lo.toNat)

/-- Spec 40_step_and_addressing.md sections 3 and 4, R104, R112, R113, R115, R116 (the wraps are the spec's
decisions D20 and D21): the indexed and indirect modes: the sums modulo 65,536 or 256, the pointers read from
page 0 with wrap, and `crossed` exactly when the high byte changed. -/
def Obligations.IndexedAndIndirectModes : Prop :=
  ∀ (s : State) (b : Byte) (w : Word),
    ((resolve s (.abx w)).addr.toNat = (w.toNat + s.x.toNat) % 65536 ∧
      ((resolve s (.abx w)).crossed = true ↔ (resolve s (.abx w)).addr.toNat / 256 ≠ w.toNat / 256)) ∧
    ((resolve s (.aby w)).addr.toNat = (w.toNat + s.y.toNat) % 65536 ∧
      ((resolve s (.aby w)).crossed = true ↔ (resolve s (.aby w)).addr.toNat / 256 ≠ w.toNat / 256)) ∧
    ((resolve s (.izx b)).addr.toNat =
        (s.ram.read ((b.toNat + s.x.toNat + 1) % 256)).toNat * 256 +
          (s.ram.read ((b.toNat + s.x.toNat) % 256)).toNat ∧
      (resolve s (.izx b)).crossed = false) ∧
    ∀ base, base = (s.ram.read ((b.toNat + 1) % 256)).toNat * 256 + (s.ram.read b.toNat).toNat →
      (resolve s (.izy b)).addr.toNat = (base + s.y.toNat) % 65536 ∧
      ((resolve s (.izy b)).crossed = true ↔ (resolve s (.izy b)).addr.toNat / 256 ≠ base / 256)

/-- Spec 40_step_and_addressing.md section 5, R118: `SetZN(v)` writes Z and N from the byte and no other flag;
and 10_state.md section 3, R16 (the spec's decision D9): the flag names are the bits of the status byte in the
order C Z I D B U V N. -/
def Obligations.SetZnWritesZeroAndNegative : Prop :=
  (∀ p v : Byte, flagsBecome p (Sys2Proof.Machine.withZN p v) [(.z, decide (v = 0#8)), (.n, decide (128 ≤ v.toNat))]) ∧
  ∀ p : Byte, p.toNat = (getFlag p .c).toNat + 2 * (getFlag p .z).toNat + 4 * (getFlag p .i).toNat +
    8 * (getFlag p .d).toNat + 16 * (getFlag p .b).toNat + 32 * (getFlag p .u).toNat +
    64 * (getFlag p .v).toNat + 128 * (getFlag p .n).toNat

/-- Spec 40_step_and_addressing.md R101, R102 and 30_encoding.md section 1: when the core runs and the bytes at
PC, read through the Bus, are the bytes of an instruction, `step` is the meaning of that instruction with PC
past its bytes, `cycles` counted down to 0 and the master-clock counter at the tick of the `cycles + 1`-th CPU
clock from here, and then the decrement of that CPU clock. That a step reaches that tick is the model's choice
(log 1). -/
def Obligations.StepRunsTheDecodedInstruction : Prop :=
  ∀ (s : State) (i : Instr) (bytes : List Byte), running s = true → decode bytes = .ok (i, []) →
    (∀ (k : Nat) (b : Byte), bytes[k]? = some b → busRead s (s.pc + BitVec.ofNat 16 k) = .next b) →
    step s = andThen (exec i { s with
        pc := s.pc + BitVec.ofNat 16 bytes.length
        cycles := 0
        mclk := 3 * (s.mclk / 3 + s.cycles + 1) })
      fun t => .next { t with cycles := t.cycles - 1 }

/-! ### Clocks -/

/-- Spec R100: a CPU clock only decrements while `cycles > 0`; at 0 it first performs one step, which adds at
least 1, so an instruction of cost n occupies n CPU clocks: the first leaves n - 1 and the next n - 1 only
decrement. -/
def Obligations.InstructionOccupiesItsCost : Prop :=
  (∀ s : State, 0 < s.cycles → cpuClock s = .next { s with cycles := s.cycles - 1 }) ∧
  (∀ s : State, s.cycles = 0 →
    cpuClock s = andThen (cpuStep s) fun t => .next { t with cycles := t.cycles - 1 }) ∧
  ∀ s t : State, s.cycles = 0 → cpuStep s = .next t →
    1 ≤ t.cycles ∧ ∀ k, 1 ≤ k → k ≤ t.cycles → cpuClocks k s = .next { t with cycles := t.cycles - k }

/-- Spec 60_exceptions.md section 11, R242 (the phase is the spec's decision D3): a master tick adds one to the
counter, runs the CPU clock exactly when the new count is a multiple of three, and returns the new count. -/
def Obligations.MasterClockDividesByThree : Prop :=
  (∀ s : State, running s = true →
    ((s.mclk + 1) % 3 ≠ 0 → hostOp .clock s = .next ({ s with mclk := s.mclk + 1 }, .ticks (s.mclk + 1))) ∧
    ((s.mclk + 1) % 3 = 0 → clock s = cpuClock { s with mclk := s.mclk + 1 })) ∧
  ∀ (s t : State) (r : HostResult), hostOp .clock s = .next (t, r) →
    t.mclk = s.mclk + 1 ∧ r = .ticks (s.mclk + 1)

/-- Spec R100, R242 and log 1 (that `step` is this run of ticks is the model's choice): `step` is exactly the
master ticks up to and including the one whose CPU clock finds `cycles = 0`, the `cycles + 1`-th CPU clock
from here, whatever the tick stops with. -/
def Obligations.StepIsTheTicksUpToTheNextInstruction : Prop :=
  ∀ s : State, step s = ticks (3 * (s.mclk / 3 + s.cycles + 1) - s.mclk) s

/-- Spec 10_state.md section 4, R20 (which the spec marks as derived): with every ILLEGAL_CYCLES at most 9,
`cycles` stays at most 8 under every host operation and every step. -/
def Obligations.CyclesStayAtMostEight : Prop :=
  (∀ (op : HostOp) (s t : State) (r : HostResult), illegalCostsAtMostNine s.params → s.cycles ≤ 8 →
    hostOp op s = .next (t, r) → t.cycles ≤ 8) ∧
  ∀ s t : State, illegalCostsAtMostNine s.params → step s = .next t → t.cycles ≤ 8

/-! ### Frames over all instructions -/

/-- Spec 10_state.md section 3, R19: an instruction changes no flag but those the table lists for it (`flagsWritten`);
the premise is the invariant that the Unused bit is set (R17), which `StepKeepsTheInvariant` states. -/
def Obligations.OnlyListedFlagsChange : Prop :=
  ∀ (i : Instr) (s t : State), s.flag .u = true → exec i s = .next t →
    ∀ f, f ∉ flagsWritten i.mnemonic → t.flag f = s.flag f

/-- Spec 10_state.md sections 1, 2, 5 and 6, R10 to R14, R22 to R25: an instruction writes only the registers the rules list
for it (`writesA`, `writesX`, `writesY`, `writesS`, `writesPc`), and none writes the Bus's counter, the
Mapper, or the marks. -/
def Obligations.OnlyListedRegistersChange : Prop :=
  ∀ (i : Instr) (s t : State), exec i s = .next t →
    (writesA i = false → t.a = s.a) ∧ (writesX i = false → t.x = s.x) ∧ (writesY i = false → t.y = s.y) ∧
    (writesS i = false → t.sp = s.sp) ∧ (writesPc i = false → t.pc = s.pc) ∧
    t.mclk = s.mclk ∧ t.mapper = s.mapper ∧ t.params = s.params ∧
    t.connected = s.connected ∧ t.faulted = s.faulted

/-- Spec 20_memory.md section 3, R53: after an instruction every address of the CPU's address space reads as before, but
for those that name a byte the instruction stores to, computed as its meaning computes them
(`bytesStored`; empty for every form that stores nothing). -/
def Obligations.OnlyStoredBytesChange : Prop :=
  ∀ (i : Instr) (s t : State), exec i s = .next t →
    ∀ a, (∀ b ∈ bytesStored s i, ¬ sameByte a b) → busRead t a = busRead s a

/-- Spec 60_exceptions.md section 8, R237: every instruction with a memory operand whose resolved address lies in the disabled
region is a bus fault at that address (the stores and the read-modify-write instructions have theirs in
`StoresWriteTheRegister`, `IncrementAndDecrementMemory` and the shifts), and an indirect jump is one at the
first of its two reads that lies there. -/
def Obligations.DisabledOperandsFault : Prop :=
  (∀ (s : State) (o : AluOperand), operandDisabled s o.operand = true →
    ∀ mk ∈ [Instr.lda, .adc, .sbc, .and, .ora, .eor, .cmp],
      exec (mk o) s = .fault (.busFault (resolve s o.operand).addr)) ∧
  (∀ (s : State) (o : LdxOperand), operandDisabled s o.operand = true →
    exec (.ldx o) s = .fault (.busFault (resolve s o.operand).addr)) ∧
  (∀ (s : State) (o : LdyOperand), operandDisabled s o.operand = true →
    exec (.ldy o) s = .fault (.busFault (resolve s o.operand).addr)) ∧
  (∀ (s : State) (o : BitOperand), operandDisabled s o.operand = true →
    exec (.bit o) s = .fault (.busFault (resolve s o.operand).addr)) ∧
  (∀ (s : State) (o : CpxOperand), operandDisabled s o.operand = true →
    exec (.cpx o) s = .fault (.busFault (resolve s o.operand).addr) ∧
    exec (.cpy o) s = .fault (.busFault (resolve s o.operand).addr)) ∧
  (∀ (s : State) (ptr : Word), region ptr = .disabled →
    exec (.jmp (.ind ptr)) s = .fault (.busFault ptr)) ∧
  ∀ (s : State) (ptr high : Word), accessible s ptr = true →
    high.toNat = (if ptr.toNat % 256 = 255 then ptr.toNat - 255 else ptr.toNat + 1) →
    region high = .disabled → exec (.jmp (.ind ptr)) s = .fault (.busFault high)

/-- Spec 60_exceptions.md section 9, R239 (the spec's decision D17): without a Mapper every instruction whose
operand address lies in cartridge space, and an indirect jump whose pointer does, is refused. -/
def Obligations.CartridgeOperandsNeedAMapper : Prop :=
  ∀ s : State, s.mapper = none →
    (∀ o : AluOperand, (∀ b, o ≠ .imm b) → region (resolve s o.operand).addr = .cartridge →
      ∀ mk ∈ [Instr.lda, .adc, .sbc, .and, .ora, .eor, .cmp], exec (mk o) s = .refused .noMapper) ∧
    (∀ o : LdxOperand, (∀ b, o ≠ .imm b) → region (resolve s o.operand).addr = .cartridge →
      exec (.ldx o) s = .refused .noMapper) ∧
    (∀ o : LdyOperand, (∀ b, o ≠ .imm b) → region (resolve s o.operand).addr = .cartridge →
      exec (.ldy o) s = .refused .noMapper) ∧
    (∀ o : BitOperand, region (resolve s o.operand).addr = .cartridge → exec (.bit o) s = .refused .noMapper) ∧
    (∀ o : CpxOperand, (∀ b, o ≠ .imm b) → region (resolve s o.operand).addr = .cartridge →
      exec (.cpx o) s = .refused .noMapper ∧ exec (.cpy o) s = .refused .noMapper) ∧
    (∀ o : StaOperand, region (resolve s o.operand).addr = .cartridge → exec (.sta o) s = .refused .noMapper) ∧
    (∀ o : StxOperand, region (resolve s o.operand).addr = .cartridge → exec (.stx o) s = .refused .noMapper) ∧
    (∀ o : StyOperand, region (resolve s o.operand).addr = .cartridge → exec (.sty o) s = .refused .noMapper) ∧
    (∀ o : RmwOperand, region (resolve s o.operand).addr = .cartridge →
      exec (.inc o) s = .refused .noMapper ∧ exec (.dec o) s = .refused .noMapper ∧
      ∀ mk ∈ [Instr.asl, .lsr, .rol, .ror], exec (mk (.mem o)) s = .refused .noMapper) ∧
    ∀ ptr : Word, region ptr = .cartridge → exec (.jmp (.ind ptr)) s = .refused .noMapper

/-! ### Invariants -/

/-- Spec 10_state.md R17, R21, R23, R25 and log 4: every step keeps the invariant of the core: RAM and the
cartridge's arrays stay in canonical form and within their sizes, a powered core has a Mapper, and the Unused
bit reads 1. -/
def Obligations.StepKeepsTheInvariant : Prop :=
  ∀ s t : State, Inv s → step s = .next t → Inv t

/-- Spec 10_state.md section 9, R30, 60_exceptions.md section 8, R236, and section 16, R250: the same for every host
operation and for the faulted state that a bus fault leads to, so for every session of the host from a newly
built core. The model's choices it rests on: that the faulted state keeps the Mapper, the connection, the
size of RAM and the Unused bit (log 8), that an inserted record has a program bank under every selector, not
under selector 0 alone (log 9), and the canonical form (log 4). -/
def Obligations.HostOperationsKeepTheInvariant : Prop :=
  (∀ (op : HostOp) (s t : State) (r : HostReply), Inv s → transition op s = .next (t, r) → Inv t) ∧
  ∀ (params : Params) (ramInit : Memory) (ops : List HostOp) (t : State), ramInit.wf = true →
    ramInit.below 2048 = true → hostRun ops (State.built params ramInit) = .next t → Inv t

/-! ### Encoding -/

/-- Spec 30_encoding.md R80 to R85: decoding the encoding of a well-formed instruction gives it back, with the
bytes that follow it. -/
def Obligations.DecodeOfEncode : Prop :=
  ∀ (i : Instr) (rest : List Byte), i.wf = true → decode (encode i ++ rest) = .ok (i, rest)

/-- Spec 30_encoding.md R80 to R87: every list of bytes that decodes is the encoding of the well-formed
instruction it gives, followed by the rest. -/
def Obligations.EncodeOfDecode : Prop :=
  ∀ (bytes rest : List Byte) (i : Instr), decode bytes = .ok (i, rest) →
    i.wf = true ∧ bytes = encode i ++ rest

/-- Spec R81, R82: the opcode byte alone decides the mnemonic, the mode and the length; every one of the 256
begins an instruction; each mode consumes the stated number of operand bytes and is used by the stated number
of legal opcodes. -/
def Obligations.DecodingIsATotalLookup : Prop :=
  (∀ (op b1 b2 : Byte) (rest : List Byte), ∃ i,
    decode (op :: b1 :: b2 :: rest) = .ok (i, (op :: b1 :: b2 :: rest).drop (1 + (entry op).mode.operandBytes)) ∧
    i.opcode = op ∧ i.mnemonic = (entry op).mnemonic ∧ i.mode = (entry op).mode) ∧
  (∀ q ∈ [(Mode.imp, 0, 25), (.acc, 0, 4), (.imm, 1, 11), (.rel, 1, 8), (.zp0, 1, 21), (.zpx, 1, 16),
      (.zpy, 1, 2), (.abs, 2, 23), (.abx, 2, 15), (.aby, 2, 9), (.ind, 2, 1), (.izx, 1, 8), (.izy, 1, 8)],
    q.1.operandBytes = q.2.1 ∧
    (List.range 256).countP (fun n => (entry (BitVec.ofNat 8 n)).mode = q.1 ∧
      (entry (BitVec.ofNat 8 n)).mnemonic ≠ .ill) = q.2.2) ∧
  (List.range 256).countP (fun n => (entry (BitVec.ofNat 8 n)).mnemonic ≠ .ill) = 151

/-- Spec 30_encoding.md R83 to R85 and 95_test_vectors.md: words written out from the encodings decode to the
instructions they stand for, in the numbering of the opcode table. -/
def Obligations.DecodeWords : Prop :=
  decodeTableWord 16 0x42A9 = some (.lda (.imm 0x42#8)) ∧
  decodeTableWord 24 0x02008D = some (.sta (.abs 0x0200#16)) ∧
  decodeTableWord 16 0x1071 = some (.adc (.izy 0x10#8)) ∧
  decodeTableWord 16 0x10F6 = some (.inc (.zpx 0x10#8)) ∧
  decodeTableWord 8 0x6A = some (.ror .acc) ∧
  decodeTableWord 16 0xFDD0 = some (.bne 0xFD#8) ∧
  decodeTableWord 24 0x02FF6C = some (.jmp (.ind 0x02FF#16)) ∧
  decodeTableWord 24 0x900020 = some (.jsr 0x9000#16) ∧
  decodeTableWord 8 0x00 = some .brk ∧
  decodeTableWord 8 0x02 = some (.ill 0x02#8)

/-- Spec 30_encoding.md section 3, R86 (which entries of the eligible modes carry the flag is the spec's decision D7): the
page-cross flag is set exactly on the reading instructions in the indexed-absolute and indirect-indexed
modes, the branch flag exactly on the eight branches. -/
def Obligations.PageCrossEligibility : Prop :=
  ∀ op : Byte,
    ((entry op).extra = .pageCross ↔
      (entry op).mode ∈ [Mode.abx, .aby, .izy] ∧
        (entry op).mnemonic ∈ [Mnemonic.adc, .and, .cmp, .eor, .lda, .ora, .sbc, .ldx, .ldy]) ∧
    ((entry op).extra = .branch ↔
      (entry op).mnemonic ∈ [Mnemonic.bcc, .bcs, .beq, .bne, .bmi, .bpl, .bvc, .bvs])

/-! ### Faults and sessions -/

/-- Spec 60_exceptions.md section 8, R236, and 10_state.md section 7, R27 (the spec's decision D16): an operation that raises
a bus fault makes the transition to a state whose fault mark is set, with nothing said of the values of the
registers, the counters and RAM; no operation and no step goes on from there, and no session has an operation
after it. That the Mapper, the connection, the parameters and the size of RAM are kept is the model's choice
(log 8). -/
def Obligations.BusFaultIsFinal : Prop :=
  ∀ (op : HostOp) (s : State) (f : Fault), hostOp op s = .fault f →
    ∃ t, transition op s = .next (t, .faulted f) ∧ t.faulted = true ∧ t.mapper = s.mapper ∧
      t.connected = s.connected ∧ t.params = s.params ∧ t.ram.below 2048 = true ∧
      (∀ next, transition next t = .refused .coreFaulted) ∧ step t = .refused .coreFaulted ∧
      (∀ (ops : List HostOp) (u : State), hostRun ops u = .next s → hostRun (ops ++ [op]) u = .next t) ∧
      ∀ (ops more : List HostOp) (next : HostOp) (u v : State), hostRun ops u = .next s →
        hostRun (ops ++ op :: next :: more) u ≠ .next v

/-- Spec 60_exceptions.md section 4, R229 (the window is the spec's decision D15): in a session that goes on, an `nmi()` that
follows an `irq()` has a CPU clock between them, so NMI comes first in a window; and the `irq()` after it in the
window changes nothing. The model's choices (log 16): that a session with the other order is refused, by the name
`nmiAfterIrq`, although 95_test_vectors.md T12.11 gives that order's effect; that the stretch before the first
CPU clock is a window too; and that `power()` and `reset()` end none. -/
def Obligations.NmiComesFirstInAWindow : Prop :=
  (∀ (before between after : List HostOp) (s t : State),
    hostRun (before ++ HostOp.irq :: (between ++ HostOp.nmi :: after)) s = .next t →
    ∃ (first rest : List HostOp) (u : State), between = first ++ HostOp.clock :: rest ∧
      hostRun (before ++ HostOp.irq :: first) s = .next u ∧ (u.mclk + 1) % 3 = 0) ∧
  ∀ s : State, running s = true →
    hostRun [.irq, .nmi] s = .refused .nmiAfterIrq ∧ hostRun [.nmi, .irq] s = hostRun [.nmi] s
end

