-- ==== Sys2Proof/Laws/Decode.lean ====
section
/-! SUPPORT. Facts about the instruction table and the instruction built from an entry. -/

namespace Sys2Proof

/-- The entries of the table that are ILL are those of the listed illegal bytes (spec 30_encoding.md R87). -/
theorem entry_illegal_iff :
    ∀ op : Byte, ((entry op).mnemonic = .ill ↔ isIllegalOpcode op = true) ∧
      ((entry op).cost = .illegalCycles ↔ isIllegalOpcode op = true) := by decide

/-- A mnemonic has a mode when building from them gives both back. -/
def compatible (e : Entry) : Bool :=
  decide ((build e 0 0 0).mnemonic = e.mnemonic ∧ (build e 0 0 0).mode = e.mode)

/-- Every entry of the table names a mode its mnemonic has. -/
theorem entry_compatible : ∀ op : Byte, compatible (entry op) = true := by decide

/-- The instruction built from an entry has its mnemonic and its mode. -/
theorem build_mnemonic {e : Entry} (op b1 b2 : Byte) (h : compatible e = true) :
    (build e op b1 b2).mnemonic = e.mnemonic ∧ (build e op b1 b2).mode = e.mode := by
  rcases e with ⟨m, md, c, x⟩
  revert h
  cases m <;> cases md <;> first
    | exact fun _ => ⟨rfl, rfl⟩
    | exact fun h => Bool.noConfusion (show false = true from h)

/-- The operand bytes of the instruction built from an entry are those its mode consumes. -/
theorem build_operandBytes {e : Entry} (op b1 b2 : Byte) (h : compatible e = true) :
    (build e op b1 b2).operandBytes =
      match e.mode.operandBytes with
      | 0 => []
      | 1 => [b1]
      | _ => [b1, b2] := by
  rcases e with ⟨m, md, c, x⟩
  revert h
  cases m <;> cases md <;> first
    | exact fun _ => rfl
    | exact fun _ => congrArg₂ (fun x y => [x, y]) (loByte_mkWord b2 b1) (hiByte_mkWord b2 b1)
    | exact fun h => Bool.noConfusion (show false = true from h)

end Sys2Proof
end

