-- ==== Sys2Proof/Laws/Flags.lean ====
section
/-! SUPPORT. What each flag of a status byte is after each flag computation. -/

namespace Sys2Proof.Machine

theorem Flag.position_injective {f g : Flag} (h : f.position = g.position) : f = g := by
  cases f <;> cases g <;> simp_all [Flag.position]

theorem Flag.position_lt (f : Flag) : f.position < 8 := by cases f <;> decide

/-- A flag that is written holds what was written, every other flag what it held. -/
theorem getFlag_putFlag (p : Byte) (f g : Flag) (v : Bool) :
    getFlag (putFlag p f v) g = if g = f then v else getFlag p g := by
  have hf := f.position_lt
  have hg := g.position_lt
  have hbit : (1#8 <<< f.position).getLsbD g.position = decide (g = f) := by
    revert hf hg; cases f <;> cases g <;> decide
  unfold putFlag getFlag
  generalize 1#8 <<< f.position = w at hbit
  cases v
  · by_cases h : g = f <;> simp [h] at hbit <;> simp [h, hbit, hf, BitVec.getLsbD_and, -BitVec.getLsbD_eq_getElem]
    omega
  · by_cases h : g = f <;> simp [h] at hbit <;> simp [h, hbit]

@[simp] theorem getFlag_putFlag_same (p : Byte) (f : Flag) (v : Bool) : getFlag (putFlag p f v) f = v := by
  simp [getFlag_putFlag]

/-- Two status bytes with the same flags are equal. -/
theorem status_ext {p q : Byte} (h : ∀ f, getFlag p f = getFlag q f) : p = q := by
  apply BitVec.eq_of_getLsbD_eq
  intro i hi
  have e : i = 0 ∨ i = 1 ∨ i = 2 ∨ i = 3 ∨ i = 4 ∨ i = 5 ∨ i = 6 ∨ i = 7 := by omega
  rcases e with rfl | rfl | rfl | rfl | rfl | rfl | rfl | rfl
  exacts [h .c, h .z, h .i, h .d, h .b, h .u, h .v, h .n]

/-- The flags after `SetZN`. -/
theorem getFlag_withZN (p v : Byte) (g : Flag) :
    getFlag (withZN p v) g =
      if g = .n then v.getLsbD 7 else if g = .z then v == 0#8 else getFlag p g := by
  simp only [withZN, getFlag_putFlag]

/-- The flags after the adder. -/
theorem getFlag_addStatus (p a m : Byte) (g : Flag) :
    getFlag (addStatus p a m) g =
      match g with
      | .n => (addResult a m (getFlag p .c)).getLsbD 7
      | .z => addResult a m (getFlag p .c) == 0#8
      | .v => addOverflow a m (getFlag p .c)
      | .c => decide (addSum a m (getFlag p .c) > 255)
      | g => getFlag p g := by
  cases g <;> simp [addStatus, getFlag_withZN, getFlag_putFlag]

/-- The flags after a compare. -/
theorem getFlag_compareStatus (p r m : Byte) (g : Flag) :
    getFlag (compareStatus p r m) g =
      match g with
      | .n => (r - m).getLsbD 7
      | .z => r == m
      | .c => decide (m.toNat ≤ r.toNat)
      | g => getFlag p g := by
  cases g <;> simp [compareStatus, getFlag_putFlag]

/-- The flags after BIT. -/
theorem getFlag_bitTestStatus (p a m : Byte) (g : Flag) :
    getFlag (bitTestStatus p a m) g =
      match g with
      | .n => m.getLsbD 7
      | .v => m.getLsbD 6
      | .z => (a &&& m) == 0#8
      | g => getFlag p g := by
  cases g <;> simp [bitTestStatus, getFlag_putFlag]

/-- The flags after a shift. -/
theorem getFlag_shiftStatus (p r : Byte) (c : Bool) (g : Flag) :
    getFlag (shiftStatus p r c) g =
      match g with
      | .n => r.getLsbD 7
      | .z => r == 0#8
      | .c => c
      | g => getFlag p g := by
  cases g <;> simp [shiftStatus, getFlag_withZN, getFlag_putFlag]

/-- A status byte pushed by PHP or BRK has B and U set and every other flag as given. -/
theorem getFlag_statusPushedByInstruction (p : Byte) (g : Flag) :
    getFlag (statusPushedByInstruction p) g = if g = .b ∨ g = .u then true else getFlag p g := by
  cases g <;> simp [statusPushedByInstruction, getFlag, Flag.position]

/-- A status byte pushed by an interrupt has B clear, U set and every other flag as given. -/
theorem getFlag_statusPushedByInterrupt (p : Byte) (g : Flag) :
    getFlag (statusPushedByInterrupt p) g = if g = .b then false else if g = .u then true else getFlag p g := by
  cases g <;> simp [statusPushedByInterrupt, getFlag, Flag.position]

/-- A pulled status byte has U set and every other flag as stored. -/
theorem getFlag_statusPulled (v : Byte) (g : Flag) :
    getFlag (statusPulled v) g = if g = .u then true else getFlag v g := by
  cases g <;> simp [statusPulled, getFlag, Flag.position]

end Sys2Proof.Machine
end

