-- ==== Sys2Proof/Laws/Memory.lean ====
section
/-! SUPPORT. The laws of byte arrays: a read after a write, and that writing keeps the canonical form and
the bound. -/

namespace Sys2Proof.Machine

@[simp] theorem Memory.read_nil (k : Nat) : Memory.read [] k = Memory.fill := rfl

theorem Memory.read_cons (c : Host.Cell) (m : Memory) (k : Nat) :
    Memory.read (c :: m) k = if c.1 = k then c.2 else Memory.read m k := rfl

theorem Memory.read_unlist (m : Memory) (a k : Nat) :
    (Memory.unlist m a).read k = if k = a then Memory.fill else m.read k := by
  induction m with
  | nil => simp [Memory.unlist]
  | cons c m ih =>
    have hc : Memory.unlist (c :: m) a = if c.1 = a then Memory.unlist m a else c :: Memory.unlist m a := by
      by_cases h : c.1 = a <;> simp [Memory.unlist, h]
    rw [hc]
    by_cases h : c.1 = a
    · rw [if_pos h, ih, Memory.read_cons]
      by_cases hk : k = a
      · simp [hk]
      · have : ¬ c.1 = k := by omega
        simp [hk, this]
    · rw [if_neg h, Memory.read_cons, Memory.read_cons, ih]
      by_cases hk : c.1 = k
      · have : ¬ k = a := by omega
        simp [hk, this]
      · simp [hk]

theorem Memory.read_place (m : Memory) (a : Nat) (v : Byte) (k : Nat) (h : m.read a = Memory.fill)
    (hm : ∀ c ∈ m, c.1 ≠ a) : (m.place a v).read k = if k = a then v else m.read k := by
  induction m with
  | nil => simp [Memory.place, Memory.read, eq_comm]
  | cons c m ih =>
    have hca : c.1 ≠ a := hm c (by simp)
    have ih' := ih (by simpa [Memory.read_cons, hca] using h) (fun d hd => hm d (by simp [hd]))
    by_cases hlt : a < c.1
    · simp only [Memory.place, hlt, if_true]
      rw [Memory.read_cons]
      simp [eq_comm]
    · simp only [Memory.place, hlt, if_false]
      rw [Memory.read_cons, ih', Memory.read_cons]
      by_cases hk : c.1 = k
      · have : ¬ k = a := by omega
        simp [hk, this]
      · simp [hk]

theorem Memory.mem_unlist (m : Memory) (a : Nat) (c : Host.Cell) :
    c ∈ Memory.unlist m a ↔ c ∈ m ∧ c.1 ≠ a := by simp [Memory.unlist]

/-- A read after a write: the byte written at its own address, the old byte everywhere else. -/
theorem Memory.read_write (m : Memory) (a : Nat) (v : Byte) (k : Nat) :
    (m.write a v).read k = if k = a then v else m.read k := by
  unfold Memory.write
  split
  · next h => rw [Memory.read_unlist, h]
  · rw [Memory.read_place _ _ _ _ (by simp [Memory.read_unlist])
      (fun c hc => ((Memory.mem_unlist m a c).1 hc).2), Memory.read_unlist]
    by_cases hk : k = a <;> simp [hk]

@[simp] theorem Memory.read_write_same (m : Memory) (a : Nat) (v : Byte) : (m.write a v).read a = v := by
  simp [Memory.read_write]

theorem Memory.read_write_other (m : Memory) (a : Nat) (v : Byte) (k : Nat) (h : k ≠ a) :
    (m.write a v).read k = m.read k := by simp [Memory.read_write, h]

theorem Memory.wfFrom_mono {lo lo' : Nat} {m : Memory} (hle : lo' ≤ lo) (h : m.wfFrom lo = true) :
    m.wfFrom lo' = true := by
  cases m with
  | nil => rfl
  | cons c m =>
    simp only [Memory.wfFrom, Bool.and_eq_true, decide_eq_true_eq] at h ⊢
    exact ⟨⟨by omega, h.1.2⟩, h.2⟩

theorem Memory.wfFrom_unlist {m : Memory} {a : Nat} : ∀ {lo : Nat}, m.wfFrom lo = true → (Memory.unlist m a).wfFrom lo = true := by
  induction m with
  | nil => intro lo h; exact h
  | cons c m ih =>
    intro lo h
    simp only [Memory.wfFrom, Bool.and_eq_true, decide_eq_true_eq] at h
    have ih' := ih h.2
    by_cases hc : c.1 = a
    · have : Memory.unlist (c :: m) a = Memory.unlist m a := by simp [Memory.unlist, hc]
      rw [this]
      exact Memory.wfFrom_mono (by omega) ih'
    · have : Memory.unlist (c :: m) a = c :: Memory.unlist m a := by simp [Memory.unlist, hc]
      rw [this]
      simp only [Memory.wfFrom, Bool.and_eq_true, decide_eq_true_eq]
      exact ⟨h.1, ih'⟩

theorem Memory.wfFrom_place {m : Memory} {a : Nat} {v : Byte} (hv : v ≠ Memory.fill) :
    ∀ {lo : Nat}, lo ≤ a → (∀ c ∈ m, c.1 ≠ a) → m.wfFrom lo = true → (m.place a v).wfFrom lo = true := by
  induction m with
  | nil => intro lo hlo _ _; simp [Memory.place, Memory.wfFrom, hlo, hv]
  | cons c m ih =>
    intro lo hlo hm h
    have hca : c.1 ≠ a := hm c (by simp)
    simp only [Memory.wfFrom, Bool.and_eq_true, decide_eq_true_eq] at h
    by_cases hlt : a < c.1
    · simp only [Memory.place, hlt, if_true, Memory.wfFrom, Bool.and_eq_true, decide_eq_true_eq]
      exact ⟨⟨hlo, by simpa using hv⟩, ⟨by omega, h.1.2⟩, h.2⟩
    · simp only [Memory.place, hlt, if_false, Memory.wfFrom, Bool.and_eq_true, decide_eq_true_eq]
      exact ⟨h.1, ih (by omega) (fun d hd => hm d (by simp [hd])) h.2⟩

/-- Writing keeps the canonical form. -/
theorem Memory.wf_write {m : Memory} (a : Nat) (v : Byte) (h : m.wf = true) : (m.write a v).wf = true := by
  unfold Memory.write
  split
  · exact Memory.wfFrom_unlist h
  · next hv =>
    exact Memory.wfFrom_place hv (Nat.zero_le a) (fun c hc => ((Memory.mem_unlist m a c).1 hc).2)
      (Memory.wfFrom_unlist h)

theorem Memory.mem_place {m : Memory} {a : Nat} {v : Byte} {c : Host.Cell} (h : c ∈ m.place a v) :
    c = (a, v) ∨ c ∈ m := by
  induction m with
  | nil => simpa [Memory.place] using h
  | cons d m ih =>
    unfold Memory.place at h
    split at h
    · simpa using h
    · rcases List.mem_cons.1 h with h | h
      · exact .inr (by simp [h])
      · exact (ih h).imp id (fun h => by simp [h])

/-- Writing below the bound keeps the bound. -/
theorem Memory.below_write {m : Memory} {n a : Nat} (v : Byte) (ha : a < n) (h : m.below n = true) :
    (m.write a v).below n = true := by
  simp only [Memory.below, List.all_eq_true, decide_eq_true_eq] at h ⊢
  intro c hc
  unfold Memory.write at hc
  split at hc
  · exact h c ((Memory.mem_unlist m a c).1 hc).1
  · rcases Memory.mem_place hc with rfl | hc
    · exact ha
    · exact h c ((Memory.mem_unlist m a c).1 hc).1

/-! ### An array from its bytes -/

/-- It holds the bytes given, and reads as unlisted above them. -/
theorem Memory.read_ofBytes (f : Nat → Byte) (n k : Nat) :
    (Memory.ofBytes f n).read k = if k < n then f k else Memory.fill := by
  induction n with
  | zero => simp [Memory.ofBytes]
  | succ n ih =>
    rw [Memory.ofBytes, Memory.read_write, ih]
    by_cases h : k = n
    · simp [h]
    · simp only [if_neg h]
      congr 1
      simp only [eq_iff_iff]; omega

theorem Memory.wf_ofBytes (f : Nat → Byte) (n : Nat) : (Memory.ofBytes f n).wf = true := by
  induction n with
  | zero => rfl
  | succ n ih => exact Memory.wf_write n (f n) ih

theorem Memory.below_ofBytes (f : Nat → Byte) {n m : Nat} (h : n ≤ m) : (Memory.ofBytes f n).below m = true := by
  induction n with
  | zero => rfl
  | succ n ih => exact Memory.below_write (f n) (by omega) (ih (by omega))

end Sys2Proof.Machine
end

