-- ==== Sys2Proof/Laws/State.lean ====
section
/-! SUPPORT. What each named update of the state does to each field: one lemma per field per update, true
by rfl, so that no later proof unfolds a record update. -/

namespace Sys2Proof.Machine

section
variable (s : State) (v : Byte)
@[simp] theorem State.setA_params : (s.setA v).params = s.params := rfl
@[simp] theorem State.setA_a : (s.setA v).a = v := rfl
@[simp] theorem State.setA_x : (s.setA v).x = s.x := rfl
@[simp] theorem State.setA_y : (s.setA v).y = s.y := rfl
@[simp] theorem State.setA_sp : (s.setA v).sp = s.sp := rfl
@[simp] theorem State.setA_p : (s.setA v).p = s.p := rfl
@[simp] theorem State.setA_pc : (s.setA v).pc = s.pc := rfl
@[simp] theorem State.setA_cycles : (s.setA v).cycles = s.cycles := rfl
@[simp] theorem State.setA_ram : (s.setA v).ram = s.ram := rfl
@[simp] theorem State.setA_mclk : (s.setA v).mclk = s.mclk := rfl
@[simp] theorem State.setA_mapper : (s.setA v).mapper = s.mapper := rfl
@[simp] theorem State.setA_connected : (s.setA v).connected = s.connected := rfl
@[simp] theorem State.setA_faulted : (s.setA v).faulted = s.faulted := rfl
end

section
variable (s : State) (v : Byte)
@[simp] theorem State.setX_params : (s.setX v).params = s.params := rfl
@[simp] theorem State.setX_a : (s.setX v).a = s.a := rfl
@[simp] theorem State.setX_x : (s.setX v).x = v := rfl
@[simp] theorem State.setX_y : (s.setX v).y = s.y := rfl
@[simp] theorem State.setX_sp : (s.setX v).sp = s.sp := rfl
@[simp] theorem State.setX_p : (s.setX v).p = s.p := rfl
@[simp] theorem State.setX_pc : (s.setX v).pc = s.pc := rfl
@[simp] theorem State.setX_cycles : (s.setX v).cycles = s.cycles := rfl
@[simp] theorem State.setX_ram : (s.setX v).ram = s.ram := rfl
@[simp] theorem State.setX_mclk : (s.setX v).mclk = s.mclk := rfl
@[simp] theorem State.setX_mapper : (s.setX v).mapper = s.mapper := rfl
@[simp] theorem State.setX_connected : (s.setX v).connected = s.connected := rfl
@[simp] theorem State.setX_faulted : (s.setX v).faulted = s.faulted := rfl
end

section
variable (s : State) (v : Byte)
@[simp] theorem State.setY_params : (s.setY v).params = s.params := rfl
@[simp] theorem State.setY_a : (s.setY v).a = s.a := rfl
@[simp] theorem State.setY_x : (s.setY v).x = s.x := rfl
@[simp] theorem State.setY_y : (s.setY v).y = v := rfl
@[simp] theorem State.setY_sp : (s.setY v).sp = s.sp := rfl
@[simp] theorem State.setY_p : (s.setY v).p = s.p := rfl
@[simp] theorem State.setY_pc : (s.setY v).pc = s.pc := rfl
@[simp] theorem State.setY_cycles : (s.setY v).cycles = s.cycles := rfl
@[simp] theorem State.setY_ram : (s.setY v).ram = s.ram := rfl
@[simp] theorem State.setY_mclk : (s.setY v).mclk = s.mclk := rfl
@[simp] theorem State.setY_mapper : (s.setY v).mapper = s.mapper := rfl
@[simp] theorem State.setY_connected : (s.setY v).connected = s.connected := rfl
@[simp] theorem State.setY_faulted : (s.setY v).faulted = s.faulted := rfl
end

section
variable (s : State) (v : Byte)
@[simp] theorem State.setSp_params : (s.setSp v).params = s.params := rfl
@[simp] theorem State.setSp_a : (s.setSp v).a = s.a := rfl
@[simp] theorem State.setSp_x : (s.setSp v).x = s.x := rfl
@[simp] theorem State.setSp_y : (s.setSp v).y = s.y := rfl
@[simp] theorem State.setSp_sp : (s.setSp v).sp = v := rfl
@[simp] theorem State.setSp_p : (s.setSp v).p = s.p := rfl
@[simp] theorem State.setSp_pc : (s.setSp v).pc = s.pc := rfl
@[simp] theorem State.setSp_cycles : (s.setSp v).cycles = s.cycles := rfl
@[simp] theorem State.setSp_ram : (s.setSp v).ram = s.ram := rfl
@[simp] theorem State.setSp_mclk : (s.setSp v).mclk = s.mclk := rfl
@[simp] theorem State.setSp_mapper : (s.setSp v).mapper = s.mapper := rfl
@[simp] theorem State.setSp_connected : (s.setSp v).connected = s.connected := rfl
@[simp] theorem State.setSp_faulted : (s.setSp v).faulted = s.faulted := rfl
end

section
variable (s : State) (v : Byte)
@[simp] theorem State.setP_params : (s.setP v).params = s.params := rfl
@[simp] theorem State.setP_a : (s.setP v).a = s.a := rfl
@[simp] theorem State.setP_x : (s.setP v).x = s.x := rfl
@[simp] theorem State.setP_y : (s.setP v).y = s.y := rfl
@[simp] theorem State.setP_sp : (s.setP v).sp = s.sp := rfl
@[simp] theorem State.setP_p : (s.setP v).p = v := rfl
@[simp] theorem State.setP_pc : (s.setP v).pc = s.pc := rfl
@[simp] theorem State.setP_cycles : (s.setP v).cycles = s.cycles := rfl
@[simp] theorem State.setP_ram : (s.setP v).ram = s.ram := rfl
@[simp] theorem State.setP_mclk : (s.setP v).mclk = s.mclk := rfl
@[simp] theorem State.setP_mapper : (s.setP v).mapper = s.mapper := rfl
@[simp] theorem State.setP_connected : (s.setP v).connected = s.connected := rfl
@[simp] theorem State.setP_faulted : (s.setP v).faulted = s.faulted := rfl
end

section
variable (s : State) (v : Word)
@[simp] theorem State.setPc_params : (s.setPc v).params = s.params := rfl
@[simp] theorem State.setPc_a : (s.setPc v).a = s.a := rfl
@[simp] theorem State.setPc_x : (s.setPc v).x = s.x := rfl
@[simp] theorem State.setPc_y : (s.setPc v).y = s.y := rfl
@[simp] theorem State.setPc_sp : (s.setPc v).sp = s.sp := rfl
@[simp] theorem State.setPc_p : (s.setPc v).p = s.p := rfl
@[simp] theorem State.setPc_pc : (s.setPc v).pc = v := rfl
@[simp] theorem State.setPc_cycles : (s.setPc v).cycles = s.cycles := rfl
@[simp] theorem State.setPc_ram : (s.setPc v).ram = s.ram := rfl
@[simp] theorem State.setPc_mclk : (s.setPc v).mclk = s.mclk := rfl
@[simp] theorem State.setPc_mapper : (s.setPc v).mapper = s.mapper := rfl
@[simp] theorem State.setPc_connected : (s.setPc v).connected = s.connected := rfl
@[simp] theorem State.setPc_faulted : (s.setPc v).faulted = s.faulted := rfl
end

section
variable (s : State) (v : Nat)
@[simp] theorem State.setCycles_params : (s.setCycles v).params = s.params := rfl
@[simp] theorem State.setCycles_a : (s.setCycles v).a = s.a := rfl
@[simp] theorem State.setCycles_x : (s.setCycles v).x = s.x := rfl
@[simp] theorem State.setCycles_y : (s.setCycles v).y = s.y := rfl
@[simp] theorem State.setCycles_sp : (s.setCycles v).sp = s.sp := rfl
@[simp] theorem State.setCycles_p : (s.setCycles v).p = s.p := rfl
@[simp] theorem State.setCycles_pc : (s.setCycles v).pc = s.pc := rfl
@[simp] theorem State.setCycles_cycles : (s.setCycles v).cycles = v := rfl
@[simp] theorem State.setCycles_ram : (s.setCycles v).ram = s.ram := rfl
@[simp] theorem State.setCycles_mclk : (s.setCycles v).mclk = s.mclk := rfl
@[simp] theorem State.setCycles_mapper : (s.setCycles v).mapper = s.mapper := rfl
@[simp] theorem State.setCycles_connected : (s.setCycles v).connected = s.connected := rfl
@[simp] theorem State.setCycles_faulted : (s.setCycles v).faulted = s.faulted := rfl
end

section
variable (s : State) (v : Memory)
@[simp] theorem State.setRam_params : (s.setRam v).params = s.params := rfl
@[simp] theorem State.setRam_a : (s.setRam v).a = s.a := rfl
@[simp] theorem State.setRam_x : (s.setRam v).x = s.x := rfl
@[simp] theorem State.setRam_y : (s.setRam v).y = s.y := rfl
@[simp] theorem State.setRam_sp : (s.setRam v).sp = s.sp := rfl
@[simp] theorem State.setRam_p : (s.setRam v).p = s.p := rfl
@[simp] theorem State.setRam_pc : (s.setRam v).pc = s.pc := rfl
@[simp] theorem State.setRam_cycles : (s.setRam v).cycles = s.cycles := rfl
@[simp] theorem State.setRam_ram : (s.setRam v).ram = v := rfl
@[simp] theorem State.setRam_mclk : (s.setRam v).mclk = s.mclk := rfl
@[simp] theorem State.setRam_mapper : (s.setRam v).mapper = s.mapper := rfl
@[simp] theorem State.setRam_connected : (s.setRam v).connected = s.connected := rfl
@[simp] theorem State.setRam_faulted : (s.setRam v).faulted = s.faulted := rfl
end

section
variable (s : State) (v : Nat)
@[simp] theorem State.setMclk_params : (s.setMclk v).params = s.params := rfl
@[simp] theorem State.setMclk_a : (s.setMclk v).a = s.a := rfl
@[simp] theorem State.setMclk_x : (s.setMclk v).x = s.x := rfl
@[simp] theorem State.setMclk_y : (s.setMclk v).y = s.y := rfl
@[simp] theorem State.setMclk_sp : (s.setMclk v).sp = s.sp := rfl
@[simp] theorem State.setMclk_p : (s.setMclk v).p = s.p := rfl
@[simp] theorem State.setMclk_pc : (s.setMclk v).pc = s.pc := rfl
@[simp] theorem State.setMclk_cycles : (s.setMclk v).cycles = s.cycles := rfl
@[simp] theorem State.setMclk_ram : (s.setMclk v).ram = s.ram := rfl
@[simp] theorem State.setMclk_mclk : (s.setMclk v).mclk = v := rfl
@[simp] theorem State.setMclk_mapper : (s.setMclk v).mapper = s.mapper := rfl
@[simp] theorem State.setMclk_connected : (s.setMclk v).connected = s.connected := rfl
@[simp] theorem State.setMclk_faulted : (s.setMclk v).faulted = s.faulted := rfl
end

section
variable (s : State) (v : Option Mapper)
@[simp] theorem State.setMapper_params : (s.setMapper v).params = s.params := rfl
@[simp] theorem State.setMapper_a : (s.setMapper v).a = s.a := rfl
@[simp] theorem State.setMapper_x : (s.setMapper v).x = s.x := rfl
@[simp] theorem State.setMapper_y : (s.setMapper v).y = s.y := rfl
@[simp] theorem State.setMapper_sp : (s.setMapper v).sp = s.sp := rfl
@[simp] theorem State.setMapper_p : (s.setMapper v).p = s.p := rfl
@[simp] theorem State.setMapper_pc : (s.setMapper v).pc = s.pc := rfl
@[simp] theorem State.setMapper_cycles : (s.setMapper v).cycles = s.cycles := rfl
@[simp] theorem State.setMapper_ram : (s.setMapper v).ram = s.ram := rfl
@[simp] theorem State.setMapper_mclk : (s.setMapper v).mclk = s.mclk := rfl
@[simp] theorem State.setMapper_mapper : (s.setMapper v).mapper = v := rfl
@[simp] theorem State.setMapper_connected : (s.setMapper v).connected = s.connected := rfl
@[simp] theorem State.setMapper_faulted : (s.setMapper v).faulted = s.faulted := rfl
end

section
variable (s : State) (v : Bool)
@[simp] theorem State.setConnected_params : (s.setConnected v).params = s.params := rfl
@[simp] theorem State.setConnected_a : (s.setConnected v).a = s.a := rfl
@[simp] theorem State.setConnected_x : (s.setConnected v).x = s.x := rfl
@[simp] theorem State.setConnected_y : (s.setConnected v).y = s.y := rfl
@[simp] theorem State.setConnected_sp : (s.setConnected v).sp = s.sp := rfl
@[simp] theorem State.setConnected_p : (s.setConnected v).p = s.p := rfl
@[simp] theorem State.setConnected_pc : (s.setConnected v).pc = s.pc := rfl
@[simp] theorem State.setConnected_cycles : (s.setConnected v).cycles = s.cycles := rfl
@[simp] theorem State.setConnected_ram : (s.setConnected v).ram = s.ram := rfl
@[simp] theorem State.setConnected_mclk : (s.setConnected v).mclk = s.mclk := rfl
@[simp] theorem State.setConnected_mapper : (s.setConnected v).mapper = s.mapper := rfl
@[simp] theorem State.setConnected_connected : (s.setConnected v).connected = v := rfl
@[simp] theorem State.setConnected_faulted : (s.setConnected v).faulted = s.faulted := rfl
end

section
variable (s : State) (v : Bool)
@[simp] theorem State.setFaulted_params : (s.setFaulted v).params = s.params := rfl
@[simp] theorem State.setFaulted_a : (s.setFaulted v).a = s.a := rfl
@[simp] theorem State.setFaulted_x : (s.setFaulted v).x = s.x := rfl
@[simp] theorem State.setFaulted_y : (s.setFaulted v).y = s.y := rfl
@[simp] theorem State.setFaulted_sp : (s.setFaulted v).sp = s.sp := rfl
@[simp] theorem State.setFaulted_p : (s.setFaulted v).p = s.p := rfl
@[simp] theorem State.setFaulted_pc : (s.setFaulted v).pc = s.pc := rfl
@[simp] theorem State.setFaulted_cycles : (s.setFaulted v).cycles = s.cycles := rfl
@[simp] theorem State.setFaulted_ram : (s.setFaulted v).ram = s.ram := rfl
@[simp] theorem State.setFaulted_mclk : (s.setFaulted v).mclk = s.mclk := rfl
@[simp] theorem State.setFaulted_mapper : (s.setFaulted v).mapper = s.mapper := rfl
@[simp] theorem State.setFaulted_connected : (s.setFaulted v).connected = s.connected := rfl
@[simp] theorem State.setFaulted_faulted : (s.setFaulted v).faulted = v := rfl
end

section
variable (s : State) (f : Flag) (v : Bool)
@[simp] theorem State.putFlag_params : (s.putFlag f v).params = s.params := rfl
@[simp] theorem State.putFlag_a : (s.putFlag f v).a = s.a := rfl
@[simp] theorem State.putFlag_x : (s.putFlag f v).x = s.x := rfl
@[simp] theorem State.putFlag_y : (s.putFlag f v).y = s.y := rfl
@[simp] theorem State.putFlag_sp : (s.putFlag f v).sp = s.sp := rfl
@[simp] theorem State.putFlag_p : (s.putFlag f v).p = Machine.putFlag s.p f v := rfl
@[simp] theorem State.putFlag_pc : (s.putFlag f v).pc = s.pc := rfl
@[simp] theorem State.putFlag_cycles : (s.putFlag f v).cycles = s.cycles := rfl
@[simp] theorem State.putFlag_ram : (s.putFlag f v).ram = s.ram := rfl
@[simp] theorem State.putFlag_mclk : (s.putFlag f v).mclk = s.mclk := rfl
@[simp] theorem State.putFlag_mapper : (s.putFlag f v).mapper = s.mapper := rfl
@[simp] theorem State.putFlag_connected : (s.putFlag f v).connected = s.connected := rfl
@[simp] theorem State.putFlag_faulted : (s.putFlag f v).faulted = s.faulted := rfl
end

section
variable (s : State) (v : Byte)
@[simp] theorem State.withZN_params : (s.withZN v).params = s.params := rfl
@[simp] theorem State.withZN_a : (s.withZN v).a = s.a := rfl
@[simp] theorem State.withZN_x : (s.withZN v).x = s.x := rfl
@[simp] theorem State.withZN_y : (s.withZN v).y = s.y := rfl
@[simp] theorem State.withZN_sp : (s.withZN v).sp = s.sp := rfl
@[simp] theorem State.withZN_p : (s.withZN v).p = Machine.withZN s.p v := rfl
@[simp] theorem State.withZN_pc : (s.withZN v).pc = s.pc := rfl
@[simp] theorem State.withZN_cycles : (s.withZN v).cycles = s.cycles := rfl
@[simp] theorem State.withZN_ram : (s.withZN v).ram = s.ram := rfl
@[simp] theorem State.withZN_mclk : (s.withZN v).mclk = s.mclk := rfl
@[simp] theorem State.withZN_mapper : (s.withZN v).mapper = s.mapper := rfl
@[simp] theorem State.withZN_connected : (s.withZN v).connected = s.connected := rfl
@[simp] theorem State.withZN_faulted : (s.withZN v).faulted = s.faulted := rfl
end

section
variable (s : State) (v : Byte)
@[simp] theorem State.push_params : (s.push v).params = s.params := rfl
@[simp] theorem State.push_a : (s.push v).a = s.a := rfl
@[simp] theorem State.push_x : (s.push v).x = s.x := rfl
@[simp] theorem State.push_y : (s.push v).y = s.y := rfl
@[simp] theorem State.push_sp : (s.push v).sp = s.sp - 1 := rfl
@[simp] theorem State.push_p : (s.push v).p = s.p := rfl
@[simp] theorem State.push_pc : (s.push v).pc = s.pc := rfl
@[simp] theorem State.push_cycles : (s.push v).cycles = s.cycles := rfl
@[simp] theorem State.push_ram : (s.push v).ram = s.ram.write (stackIndex s.sp) v := rfl
@[simp] theorem State.push_mclk : (s.push v).mclk = s.mclk := rfl
@[simp] theorem State.push_mapper : (s.push v).mapper = s.mapper := rfl
@[simp] theorem State.push_connected : (s.push v).connected = s.connected := rfl
@[simp] theorem State.push_faulted : (s.push v).faulted = s.faulted := rfl
end

section
variable (s : State)
@[simp] theorem State.pop_params : (s.pop).params = s.params := rfl
@[simp] theorem State.pop_a : (s.pop).a = s.a := rfl
@[simp] theorem State.pop_x : (s.pop).x = s.x := rfl
@[simp] theorem State.pop_y : (s.pop).y = s.y := rfl
@[simp] theorem State.pop_sp : (s.pop).sp = s.sp + 1 := rfl
@[simp] theorem State.pop_p : (s.pop).p = s.p := rfl
@[simp] theorem State.pop_pc : (s.pop).pc = s.pc := rfl
@[simp] theorem State.pop_cycles : (s.pop).cycles = s.cycles := rfl
@[simp] theorem State.pop_ram : (s.pop).ram = s.ram := rfl
@[simp] theorem State.pop_mclk : (s.pop).mclk = s.mclk := rfl
@[simp] theorem State.pop_mapper : (s.pop).mapper = s.mapper := rfl
@[simp] theorem State.pop_connected : (s.pop).connected = s.connected := rfl
@[simp] theorem State.pop_faulted : (s.pop).faulted = s.faulted := rfl
end

section
variable (s : State) (i : Instr) (n : Nat)
@[simp] theorem State.charge_params : (s.charge i n).params = s.params := rfl
@[simp] theorem State.charge_a : (s.charge i n).a = s.a := rfl
@[simp] theorem State.charge_x : (s.charge i n).x = s.x := rfl
@[simp] theorem State.charge_y : (s.charge i n).y = s.y := rfl
@[simp] theorem State.charge_sp : (s.charge i n).sp = s.sp := rfl
@[simp] theorem State.charge_p : (s.charge i n).p = s.p := rfl
@[simp] theorem State.charge_pc : (s.charge i n).pc = s.pc := rfl
@[simp] theorem State.charge_cycles : (s.charge i n).cycles = s.cycles + baseCycles s.params i + n := rfl
@[simp] theorem State.charge_ram : (s.charge i n).ram = s.ram := rfl
@[simp] theorem State.charge_mclk : (s.charge i n).mclk = s.mclk := rfl
@[simp] theorem State.charge_mapper : (s.charge i n).mapper = s.mapper := rfl
@[simp] theorem State.charge_connected : (s.charge i n).connected = s.connected := rfl
@[simp] theorem State.charge_faulted : (s.charge i n).faulted = s.faulted := rfl
end

section
variable (s : State) (m : Byte)
@[simp] theorem State.addCore_params : (s.addCore m).params = s.params := rfl
@[simp] theorem State.addCore_a : (s.addCore m).a = addResult s.a m (s.flag .c) := rfl
@[simp] theorem State.addCore_x : (s.addCore m).x = s.x := rfl
@[simp] theorem State.addCore_y : (s.addCore m).y = s.y := rfl
@[simp] theorem State.addCore_sp : (s.addCore m).sp = s.sp := rfl
@[simp] theorem State.addCore_p : (s.addCore m).p = addStatus s.p s.a m := rfl
@[simp] theorem State.addCore_pc : (s.addCore m).pc = s.pc := rfl
@[simp] theorem State.addCore_cycles : (s.addCore m).cycles = s.cycles := rfl
@[simp] theorem State.addCore_ram : (s.addCore m).ram = s.ram := rfl
@[simp] theorem State.addCore_mclk : (s.addCore m).mclk = s.mclk := rfl
@[simp] theorem State.addCore_mapper : (s.addCore m).mapper = s.mapper := rfl
@[simp] theorem State.addCore_connected : (s.addCore m).connected = s.connected := rfl
@[simp] theorem State.addCore_faulted : (s.addCore m).faulted = s.faulted := rfl
end

section
variable (s : State) (r m : Byte)
@[simp] theorem State.compare_params : (s.compare r m).params = s.params := rfl
@[simp] theorem State.compare_a : (s.compare r m).a = s.a := rfl
@[simp] theorem State.compare_x : (s.compare r m).x = s.x := rfl
@[simp] theorem State.compare_y : (s.compare r m).y = s.y := rfl
@[simp] theorem State.compare_sp : (s.compare r m).sp = s.sp := rfl
@[simp] theorem State.compare_p : (s.compare r m).p = compareStatus s.p r m := rfl
@[simp] theorem State.compare_pc : (s.compare r m).pc = s.pc := rfl
@[simp] theorem State.compare_cycles : (s.compare r m).cycles = s.cycles := rfl
@[simp] theorem State.compare_ram : (s.compare r m).ram = s.ram := rfl
@[simp] theorem State.compare_mclk : (s.compare r m).mclk = s.mclk := rfl
@[simp] theorem State.compare_mapper : (s.compare r m).mapper = s.mapper := rfl
@[simp] theorem State.compare_connected : (s.compare r m).connected = s.connected := rfl
@[simp] theorem State.compare_faulted : (s.compare r m).faulted = s.faulted := rfl
end

section
variable (s : State) (w : Word) (v : Byte)
@[simp] theorem State.placeRam_params : (s.placeRam w v).params = s.params := rfl
@[simp] theorem State.placeRam_a : (s.placeRam w v).a = s.a := rfl
@[simp] theorem State.placeRam_x : (s.placeRam w v).x = s.x := rfl
@[simp] theorem State.placeRam_y : (s.placeRam w v).y = s.y := rfl
@[simp] theorem State.placeRam_sp : (s.placeRam w v).sp = s.sp := rfl
@[simp] theorem State.placeRam_p : (s.placeRam w v).p = s.p := rfl
@[simp] theorem State.placeRam_pc : (s.placeRam w v).pc = s.pc := rfl
@[simp] theorem State.placeRam_cycles : (s.placeRam w v).cycles = s.cycles := rfl
@[simp] theorem State.placeRam_ram : (s.placeRam w v).ram = s.ram.write (ramIndex w) v := rfl
@[simp] theorem State.placeRam_mclk : (s.placeRam w v).mclk = s.mclk := rfl
@[simp] theorem State.placeRam_mapper : (s.placeRam w v).mapper = s.mapper := rfl
@[simp] theorem State.placeRam_connected : (s.placeRam w v).connected = s.connected := rfl
@[simp] theorem State.placeRam_faulted : (s.placeRam w v).faulted = s.faulted := rfl
end

section
variable (s : State)
@[simp] theorem State.atNextFetch_params : (s.atNextFetch).params = s.params := rfl
@[simp] theorem State.atNextFetch_a : (s.atNextFetch).a = s.a := rfl
@[simp] theorem State.atNextFetch_x : (s.atNextFetch).x = s.x := rfl
@[simp] theorem State.atNextFetch_y : (s.atNextFetch).y = s.y := rfl
@[simp] theorem State.atNextFetch_sp : (s.atNextFetch).sp = s.sp := rfl
@[simp] theorem State.atNextFetch_p : (s.atNextFetch).p = s.p := rfl
@[simp] theorem State.atNextFetch_pc : (s.atNextFetch).pc = s.pc := rfl
@[simp] theorem State.atNextFetch_cycles : (s.atNextFetch).cycles = 0 := rfl
@[simp] theorem State.atNextFetch_ram : (s.atNextFetch).ram = s.ram := rfl
@[simp] theorem State.atNextFetch_mclk : (s.atNextFetch).mclk = 3 * (s.mclk / 3 + s.cycles + 1) - 1 := rfl
@[simp] theorem State.atNextFetch_mapper : (s.atNextFetch).mapper = s.mapper := rfl
@[simp] theorem State.atNextFetch_connected : (s.atNextFetch).connected = s.connected := rfl
@[simp] theorem State.atNextFetch_faulted : (s.atNextFetch).faulted = s.faulted := rfl
end

section
variable (s : State)
@[simp] theorem returnFromInterrupt_params : (returnFromInterrupt s).params = s.params := by simp [returnFromInterrupt]
@[simp] theorem returnFromInterrupt_a : (returnFromInterrupt s).a = s.a := by simp [returnFromInterrupt]
@[simp] theorem returnFromInterrupt_x : (returnFromInterrupt s).x = s.x := by simp [returnFromInterrupt]
@[simp] theorem returnFromInterrupt_y : (returnFromInterrupt s).y = s.y := by simp [returnFromInterrupt]
@[simp] theorem returnFromInterrupt_sp : (returnFromInterrupt s).sp = s.sp + 1 + 1 + 1 := by simp [returnFromInterrupt]
@[simp] theorem returnFromInterrupt_p : (returnFromInterrupt s).p = statusPulled s.pulled := by simp [returnFromInterrupt]
@[simp] theorem returnFromInterrupt_pc : (returnFromInterrupt s).pc = mkWord s.pop.pop.pulled s.pop.pulled := by simp [returnFromInterrupt]
@[simp] theorem returnFromInterrupt_cycles : (returnFromInterrupt s).cycles = s.cycles := by simp [returnFromInterrupt]
@[simp] theorem returnFromInterrupt_ram : (returnFromInterrupt s).ram = s.ram := by simp [returnFromInterrupt]
@[simp] theorem returnFromInterrupt_mclk : (returnFromInterrupt s).mclk = s.mclk := by simp [returnFromInterrupt]
@[simp] theorem returnFromInterrupt_mapper : (returnFromInterrupt s).mapper = s.mapper := by simp [returnFromInterrupt]
@[simp] theorem returnFromInterrupt_connected : (returnFromInterrupt s).connected = s.connected := by simp [returnFromInterrupt]
@[simp] theorem returnFromInterrupt_faulted : (returnFromInterrupt s).faulted = s.faulted := by simp [returnFromInterrupt]
end

section
variable (s : State) (w : Word) (v : Byte)
@[simp] theorem interruptFrame_params : (interruptFrame s w v).params = s.params := by simp [interruptFrame]
@[simp] theorem interruptFrame_a : (interruptFrame s w v).a = s.a := by simp [interruptFrame]
@[simp] theorem interruptFrame_x : (interruptFrame s w v).x = s.x := by simp [interruptFrame]
@[simp] theorem interruptFrame_y : (interruptFrame s w v).y = s.y := by simp [interruptFrame]
@[simp] theorem interruptFrame_sp : (interruptFrame s w v).sp = s.sp - 1 - 1 - 1 := by simp [interruptFrame]
@[simp] theorem interruptFrame_p : (interruptFrame s w v).p = s.p := by simp [interruptFrame]
@[simp] theorem interruptFrame_pc : (interruptFrame s w v).pc = s.pc := by simp [interruptFrame]
@[simp] theorem interruptFrame_cycles : (interruptFrame s w v).cycles = s.cycles := by simp [interruptFrame]
@[simp] theorem interruptFrame_ram : (interruptFrame s w v).ram = ((s.ram.write (stackIndex s.sp) (hiByte w)).write (stackIndex (s.sp - 1)) (loByte w)).write (stackIndex (s.sp - 1 - 1)) v := by simp [interruptFrame]
@[simp] theorem interruptFrame_mclk : (interruptFrame s w v).mclk = s.mclk := by simp [interruptFrame]
@[simp] theorem interruptFrame_mapper : (interruptFrame s w v).mapper = s.mapper := by simp [interruptFrame]
@[simp] theorem interruptFrame_connected : (interruptFrame s w v).connected = s.connected := by simp [interruptFrame]
@[simp] theorem interruptFrame_faulted : (interruptFrame s w v).faulted = s.faulted := by simp [interruptFrame]
end

/-- What `Pull` gives depends on RAM and S alone. -/
theorem State.pulled_eq (s : State) : s.pulled = s.ram.read (stackIndex (s.sp + 1)) := rfl

end Sys2Proof.Machine
end

