-- ==== Sys2Proof/Laws/Ops.lean ====
section
/-! SUPPORT. One lemma for each shared operation that says what it can do: sequencing, the Bus, the
stack, page 0, the vectors and the interrupt sequence. -/

namespace Sys2Proof.Machine

section
variable {α β : Type}

@[simp] theorem andThen_next (v : α) (f : α → Result β) : andThen (.next v) f = f v := rfl
@[simp] theorem andThen_fault (r : Fault) (f : α → Result β) : andThen (.fault r) f = .fault r := rfl
@[simp] theorem andThen_refused (r : Refusal) (f : α → Result β) : andThen (.refused r) f = .refused r := rfl

/-- A sequence goes on exactly when both of its parts do. -/
theorem andThen_eq_next {x : Result α} {f : α → Result β} {t : β} :
    andThen x f = .next t ↔ ∃ v, x = .next v ∧ f v = .next t := by
  cases x <;> simp

end

/-! ### Addresses -/

theorem ramIndex_eq_mod (a : Word) : ramIndex a = a.toNat % 2048 := by
  have h : (0x07FF : Nat) = 2 ^ 11 - 1 := rfl
  simp only [ramIndex, BitVec.toNat_and]
  show a.toNat &&& 0x07FF = _
  rw [h, Nat.and_two_pow_sub_one_eq_mod]

theorem ramIndex_lt (a : Word) : ramIndex a < 2048 := by
  rw [ramIndex_eq_mod]; omega

theorem stackIndex_lt (sp : Byte) : stackIndex sp < 2048 := by
  have := sp.isLt
  simp only [stackIndex]; omega

theorem region_eq_ram_iff (a : Word) : region a = .ram ↔ a.toNat ≤ 0x1FFF := by
  unfold region
  repeat' split
  all_goals simp; try omega

theorem region_eq_disabled_iff (a : Word) : region a = .disabled ↔ 0x4018 ≤ a.toNat ∧ a.toNat ≤ 0x401F := by
  unfold region
  repeat' split
  all_goals simp; try omega

theorem region_eq_cartridge_iff (a : Word) : region a = .cartridge ↔ 0x4020 ≤ a.toNat := by
  unfold region
  repeat' split
  all_goals simp; try omega

theorem region_zeroPage (b : Byte) : region (zeroExtend16 b) = .ram := by
  have := b.isLt
  rw [region_eq_ram_iff, toNat_zeroExtend16]; omega

theorem ramIndex_zeroPage (b : Byte) : ramIndex (zeroExtend16 b) = b.toNat := by
  have := b.isLt
  rw [ramIndex_eq_mod, toNat_zeroExtend16]; omega

/-- The address of the stack location a stack pointer names. -/
theorem toNat_stackAddress (sp : Byte) : (0x0100#16 + zeroExtend16 sp).toNat = stackIndex sp := by
  have := sp.isLt
  rw [BitVec.toNat_add, toNat_zeroExtend16]
  simp only [stackIndex, BitVec.toNat_ofNat]; omega

theorem region_stack (sp : Byte) : region (0x0100#16 + zeroExtend16 sp) = .ram := by
  have := stackIndex_lt sp
  rw [region_eq_ram_iff, toNat_stackAddress]; omega

theorem ramIndex_stack (sp : Byte) : ramIndex (0x0100#16 + zeroExtend16 sp) = stackIndex sp := by
  have := stackIndex_lt sp
  rw [ramIndex_eq_mod, toNat_stackAddress]; omega

theorem stackIndex_inj {p q : Byte} : stackIndex p = stackIndex q ↔ p = q := by
  simp only [stackIndex]
  constructor
  · intro h; apply BitVec.eq_of_toNat_eq; omega
  · rintro rfl; rfl

/-! ### The Bus -/

/-- What the Bus reads depends on RAM and the Mapper alone. -/
theorem busRead_congr {s t : State} (hr : t.ram = s.ram) (hm : t.mapper = s.mapper) (a : Word) :
    busRead t a = busRead s a := by simp only [busRead, hr, hm]

theorem busRead_ram {s : State} {a : Word} (h : region a = .ram) :
    busRead s a = .next (s.ram.read (ramIndex a)) := by simp only [busRead, h]

theorem busRead_disabled {s : State} {a : Word} (h : region a = .disabled) :
    busRead s a = .fault (.busFault a) := by simp only [busRead, h]

theorem busRead_cartridge {s : State} {a : Word} {m : Mapper} (h : region a = .cartridge)
    (hm : s.mapper = some m) : busRead s a = .next (m.cpuRead a) := by simp only [busRead, h, hm]

theorem busWrite_ram {s : State} {a : Word} (v : Byte) (h : region a = .ram) :
    busWrite s a v = .next (s.setRam (s.ram.write (ramIndex a) v)) := by simp only [busWrite, h]

theorem busWrite_disabled {s : State} {a : Word} (v : Byte) (h : region a = .disabled) :
    busWrite s a v = .fault (.busFault a) := by simp only [busWrite, h]

@[simp] theorem Mapper.cpuWrite_eq (m : Mapper) (a : Word) (v : Byte) : m.cpuWrite a v = m := by cases m; rfl

@[simp] theorem State.setMapper_self (s : State) : s.setMapper s.mapper = s := rfl

/-- All a write of the Bus can do: store in RAM, or change nothing. -/
theorem busWrite_next {s t : State} {a : Word} {v : Byte} (h : busWrite s a v = .next t) :
    (region a = .ram ∧ t = s.setRam (s.ram.write (ramIndex a) v)) ∨ (region a ≠ .ram ∧ t = s) := by
  unfold busWrite at h
  split at h
  · next hr => exact .inl ⟨hr, by simpa using h.symm⟩
  · next hr => exact .inr ⟨by simp [hr], by simpa using h.symm⟩
  · next hr => exact .inr ⟨by simp [hr], by simpa using h.symm⟩
  · simp at h
  · next hr =>
    split at h
    · simp at h
    · next m hm =>
      refine .inr ⟨by simp [hr], ?_⟩
      rw [Mapper.cpuWrite_eq, ← hm, State.setMapper_self] at h
      simpa using h.symm

/-- A read of the Bus goes on outside the disabled region, in cartridge space when a Mapper is there. -/
theorem busRead_next {s : State} {a : Word} {v : Byte} (h : busRead s a = .next v) :
    region a ≠ .disabled ∧ (region a = .cartridge → s.mapper.isSome = true) := by
  unfold busRead at h
  split at h <;> try simp_all
  split at h <;> simp_all

/-- Reading page 0 is a read of the Bus at that address (log 10). -/
theorem zeroPageRead_is_busRead (s : State) (b : Byte) :
    busRead s (zeroExtend16 b) = .next (zeroPageRead s b) := by
  rw [busRead_ram (region_zeroPage b), ramIndex_zeroPage]; rfl

/-- The write that `Push` makes is a write of the Bus at 0x0100 + S (log 10). -/
theorem push_is_busWrite (s : State) (v : Byte) :
    andThen (busWrite s (0x0100#16 + zeroExtend16 s.sp) v) (fun t => .next (t.setSp (s.sp - 1))) =
      .next (s.push v) := by
  rw [busWrite_ram v (region_stack s.sp), ramIndex_stack]; rfl

/-- The read that `Pull` makes is a read of the Bus at 0x0100 + the new S (log 10). -/
theorem pulled_is_busRead (s : State) : busRead s.pop (0x0100#16 + zeroExtend16 s.pop.sp) = .next s.pulled := by
  rw [busRead_ram (region_stack _), ramIndex_stack]; rfl

/-! ### The vectors and the interrupt sequence -/

/-- A word of cartridge space is what the Mapper supplies. -/
theorem busRead16_cartridge {s : State} {a : Word} {m : Mapper} (ha : region a = .cartridge)
    (hb : region (a + 1) = .cartridge) (hm : s.mapper = some m) :
    busRead16 s a = .next (mkWord (m.cpuRead (a + 1)) (m.cpuRead a)) := by
  simp only [busRead16, busRead_cartridge ha hm, busRead_cartridge hb hm, andThen_next]

/-- The interrupt sequence with a Mapper in the slot, for a vector in cartridge space. -/
theorem takeInterrupt_eq {s : State} {m : Mapper} (hm : s.mapper = some m) {vector : Word}
    (h0 : region vector = .cartridge) (h1 : region (vector + 1) = .cartridge) (returnPc : Word) (status : Byte) :
    takeInterrupt s vector returnPc status =
      .next (((interruptFrame s returnPc status).putFlag .i true).setPc
        (mkWord (m.cpuRead (vector + 1)) (m.cpuRead vector))) := by
  unfold takeInterrupt
  rw [busRead16_cartridge h0 h1 (m := m) (by simpa using hm)]
  rfl

/-- All the interrupt sequence can do when it goes on. -/
theorem takeInterrupt_next {s t : State} {vector returnPc : Word} {status : Byte}
    (h : takeInterrupt s vector returnPc status = .next t) :
    ∃ target, t = ((interruptFrame s returnPc status).putFlag .i true).setPc target := by
  obtain ⟨target, -, ht⟩ := andThen_eq_next.1 h
  exact ⟨target, by simpa using ht.symm⟩

end Sys2Proof.Machine
end

