-- ==== Sys2Proof/Laws/Operands.lean ====
section
/-! SUPPORT. What each shape of instruction can do when it goes on. -/

namespace Sys2Proof.Machine

/-- An operand that gives a byte is an immediate, or an address the Bus reads. -/
theorem operandValue_next {s : State} {o : Operand} {v : Byte} (h : operandValue s o = .next v) :
    (o = .imm v) ∨ ((∀ b, o ≠ .imm b) ∧ busRead s (resolve s o).addr = .next v) := by
  cases o <;> simp_all [operandValue]

theorem readOperand_next {s t : State} {i : Instr} {o : Operand} {f : State → Byte → State}
    (h : readOperand s i o f = .next t) :
    ∃ v, operandValue s o = .next v ∧ t = (f s v).charge i (pageCrossCycles i (resolve s o).crossed) := by
  obtain ⟨v, hv, ht⟩ := andThen_eq_next.1 h
  exact ⟨v, hv, by simpa using ht.symm⟩

theorem storeOperand_next {s t : State} {i : Instr} {o : Operand} {v : Byte}
    (h : storeOperand s i o v = .next t) :
    ∃ u, busWrite s (resolve s o).addr v = .next u ∧
      t = u.charge i (pageCrossCycles i (resolve s o).crossed) := by
  obtain ⟨u, hu, ht⟩ := andThen_eq_next.1 h
  exact ⟨u, hu, by simpa using ht.symm⟩

theorem modifyOperand_next {s t : State} {i : Instr} {o : Operand} {f : Byte → Byte → Byte × Byte}
    (h : modifyOperand s i o f = .next t) :
    ∃ v u, operandValue s o = .next v ∧ busWrite s (resolve s o).addr (f v s.p).1 = .next u ∧
      t = (u.setP (f v s.p).2).charge i (pageCrossCycles i (resolve s o).crossed) := by
  obtain ⟨v, hv, h⟩ := andThen_eq_next.1 h
  obtain ⟨u, hu, ht⟩ := andThen_eq_next.1 h
  exact ⟨v, u, hv, hu, by simpa using ht.symm⟩

theorem inherent_next {s t : State} {i : Instr} {f : State → State} (h : inherent s i f = .next t) :
    t = (f s).charge i 0 := by simpa [inherent] using h.symm

/-- A shift of the accumulator. -/
theorem shiftOp_acc_next {s t : State} {i : Instr} {f : Byte → Bool → Byte × Bool}
    (h : shiftOp s i f .acc = .next t) :
    t = ((s.setA (f s.a (s.flag .c)).1).setP
      (shiftStatus s.p (f s.a (s.flag .c)).1 (f s.a (s.flag .c)).2)).charge i 0 :=
  inherent_next (i := i) (s := s)
    (f := fun s => (s.setA (f s.a (s.flag .c)).1).setP
      (shiftStatus s.p (f s.a (s.flag .c)).1 (f s.a (s.flag .c)).2)) h

/-- A shift of a memory byte. -/
theorem shiftOp_mem_next {s t : State} {i : Instr} {f : Byte → Bool → Byte × Bool} {o : RmwOperand}
    (h : shiftOp s i f (.mem o) = .next t) :
    ∃ v u, operandValue s o.operand = .next v ∧
      busWrite s (resolve s o.operand).addr (f v (s.flag .c)).1 = .next u ∧
      t = (u.setP (shiftStatus s.p (f v (s.flag .c)).1 (f v (s.flag .c)).2)).charge i
        (pageCrossCycles i (resolve s o.operand).crossed) :=
  modifyOperand_next (i := i) (s := s) (o := o.operand)
    (f := fun v p => ((f v (getFlag p .c)).1,
      shiftStatus p (f v (getFlag p .c)).1 (f v (getFlag p .c)).2)) h

theorem branch_next {s t : State} {i : Instr} {d : Byte} {c : Bool} (h : branch s i d c = .next t) :
    (c = false ∧ t = s.charge i 0) ∨
      (c = true ∧ ∃ n, t = (s.setPc (s.pc + signExtend16 d)).charge i n) := by
  unfold branch at h
  cases c
  · exact .inl ⟨rfl, by simpa using h.symm⟩
  · exact .inr ⟨rfl, _, by simpa using h.symm⟩

/-- A branch always goes on: its target is only a value for PC. -/
theorem branch_eq (s : State) (i : Instr) (d : Byte) (c : Bool) :
    branch s i d c =
      .next (if c then (s.setPc (s.pc + signExtend16 d)).charge i
          (if page (s.pc + signExtend16 d) ≠ page s.pc then 2 else 1)
        else s.charge i 0) := by
  cases c <;> rfl

end Sys2Proof.Machine
end

