-- ==== Sys2Proof/Laws/Exec.lean ====
section
/-! SUPPORT. For each instruction, its meaning as one of the shapes of Machine/Operands.lean (`exec_lda`), and
all it can do when it goes on (`exec_lda_next`). A proof about an instruction starts from these, so that it
unfolds neither `exec` nor a shape. -/

namespace Sys2Proof.Machine

section
variable (s : State)

theorem exec_lda (o : AluOperand) : exec (.lda o) s =
    readOperand s (.lda o) o.operand fun s v => (s.setA v).withZN v := rfl
theorem exec_ldx (o : LdxOperand) : exec (.ldx o) s =
    readOperand s (.ldx o) o.operand fun s v => (s.setX v).withZN v := rfl
theorem exec_ldy (o : LdyOperand) : exec (.ldy o) s =
    readOperand s (.ldy o) o.operand fun s v => (s.setY v).withZN v := rfl
theorem exec_sta (o : StaOperand) : exec (.sta o) s = storeOperand s (.sta o) o.operand s.a := rfl
theorem exec_stx (o : StxOperand) : exec (.stx o) s = storeOperand s (.stx o) o.operand s.x := rfl
theorem exec_sty (o : StyOperand) : exec (.sty o) s = storeOperand s (.sty o) o.operand s.y := rfl
theorem exec_tax : exec .tax s = inherent s .tax fun s => (s.setX s.a).withZN s.a := rfl
theorem exec_tay : exec .tay s = inherent s .tay fun s => (s.setY s.a).withZN s.a := rfl
theorem exec_txa : exec .txa s = inherent s .txa fun s => (s.setA s.x).withZN s.x := rfl
theorem exec_tya : exec .tya s = inherent s .tya fun s => (s.setA s.y).withZN s.y := rfl
theorem exec_tsx : exec .tsx s = inherent s .tsx fun s => (s.setX s.sp).withZN s.sp := rfl
theorem exec_txs : exec .txs s = inherent s .txs fun s => s.setSp s.x := rfl
theorem exec_adc (o : AluOperand) : exec (.adc o) s =
    readOperand s (.adc o) o.operand fun s m => s.addCore m := rfl
theorem exec_sbc (o : AluOperand) : exec (.sbc o) s =
    readOperand s (.sbc o) o.operand fun s m => s.addCore (m ^^^ 0xFF#8) := rfl
theorem exec_and (o : AluOperand) : exec (.and o) s =
    readOperand s (.and o) o.operand fun s m => (s.setA (s.a &&& m)).withZN (s.a &&& m) := rfl
theorem exec_ora (o : AluOperand) : exec (.ora o) s =
    readOperand s (.ora o) o.operand fun s m => (s.setA (s.a ||| m)).withZN (s.a ||| m) := rfl
theorem exec_eor (o : AluOperand) : exec (.eor o) s =
    readOperand s (.eor o) o.operand fun s m => (s.setA (s.a ^^^ m)).withZN (s.a ^^^ m) := rfl
theorem exec_bit (o : BitOperand) : exec (.bit o) s =
    readOperand s (.bit o) o.operand fun s m => s.setP (bitTestStatus s.p s.a m) := rfl
theorem exec_cmp (o : AluOperand) : exec (.cmp o) s =
    readOperand s (.cmp o) o.operand fun s m => s.compare s.a m := rfl
theorem exec_cpx (o : CpxOperand) : exec (.cpx o) s =
    readOperand s (.cpx o) o.operand fun s m => s.compare s.x m := rfl
theorem exec_cpy (o : CpxOperand) : exec (.cpy o) s =
    readOperand s (.cpy o) o.operand fun s m => s.compare s.y m := rfl
theorem exec_inc (o : RmwOperand) : exec (.inc o) s =
    modifyOperand s (.inc o) o.operand fun v p => (v + 1, withZN p (v + 1)) := rfl
theorem exec_dec (o : RmwOperand) : exec (.dec o) s =
    modifyOperand s (.dec o) o.operand fun v p => (v - 1, withZN p (v - 1)) := rfl
theorem exec_inx : exec .inx s = inherent s .inx fun s => (s.setX (s.x + 1)).withZN (s.x + 1) := rfl
theorem exec_iny : exec .iny s = inherent s .iny fun s => (s.setY (s.y + 1)).withZN (s.y + 1) := rfl
theorem exec_dex : exec .dex s = inherent s .dex fun s => (s.setX (s.x - 1)).withZN (s.x - 1) := rfl
theorem exec_dey : exec .dey s = inherent s .dey fun s => (s.setY (s.y - 1)).withZN (s.y - 1) := rfl
theorem exec_asl (o : ShiftOperand) : exec (.asl o) s = shiftOp s (.asl o) shiftLeft o := rfl
theorem exec_lsr (o : ShiftOperand) : exec (.lsr o) s = shiftOp s (.lsr o) shiftRight o := rfl
theorem exec_rol (o : ShiftOperand) : exec (.rol o) s = shiftOp s (.rol o) rotateLeft o := rfl
theorem exec_ror (o : ShiftOperand) : exec (.ror o) s = shiftOp s (.ror o) rotateRight o := rfl
theorem exec_bcc (d : Byte) : exec (.bcc d) s = branch s (.bcc d) d (!s.flag .c) := rfl
theorem exec_bcs (d : Byte) : exec (.bcs d) s = branch s (.bcs d) d (s.flag .c) := rfl
theorem exec_beq (d : Byte) : exec (.beq d) s = branch s (.beq d) d (s.flag .z) := rfl
theorem exec_bne (d : Byte) : exec (.bne d) s = branch s (.bne d) d (!s.flag .z) := rfl
theorem exec_bmi (d : Byte) : exec (.bmi d) s = branch s (.bmi d) d (s.flag .n) := rfl
theorem exec_bpl (d : Byte) : exec (.bpl d) s = branch s (.bpl d) d (!s.flag .n) := rfl
theorem exec_bvc (d : Byte) : exec (.bvc d) s = branch s (.bvc d) d (!s.flag .v) := rfl
theorem exec_bvs (d : Byte) : exec (.bvs d) s = branch s (.bvs d) d (s.flag .v) := rfl
theorem exec_jmp (o : JmpOperand) : exec (.jmp o) s =
    andThen (jumpTarget s o) fun target => .next ((s.setPc target).charge (.jmp o) 0) := rfl
theorem exec_jsr (w : Word) : exec (.jsr w) s =
    inherent s (.jsr w) fun s => ((s.push (hiByte (s.pc - 1))).push (loByte (s.pc - 1))).setPc w := rfl
theorem exec_rts : exec .rts s = inherent s .rts fun s => s.pop.pop.setPc (mkWord s.pop.pulled s.pulled + 1) := rfl
theorem exec_pha : exec .pha s = inherent s .pha fun s => s.push s.a := rfl
theorem exec_php : exec .php s = inherent s .php fun s => s.push (statusPushedByInstruction s.p) := rfl
theorem exec_pla : exec .pla s = inherent s .pla fun s => (s.pop.setA s.pulled).withZN s.pulled := rfl
theorem exec_plp : exec .plp s = inherent s .plp fun s => s.pop.setP (statusPulled s.pulled) := rfl
theorem exec_clc : exec .clc s = inherent s .clc fun s => s.putFlag .c false := rfl
theorem exec_sec : exec .sec s = inherent s .sec fun s => s.putFlag .c true := rfl
theorem exec_cli : exec .cli s = inherent s .cli fun s => s.putFlag .i false := rfl
theorem exec_sei : exec .sei s = inherent s .sei fun s => s.putFlag .i true := rfl
theorem exec_cld : exec .cld s = inherent s .cld fun s => s.putFlag .d false := rfl
theorem exec_sed : exec .sed s = inherent s .sed fun s => s.putFlag .d true := rfl
theorem exec_clv : exec .clv s = inherent s .clv fun s => s.putFlag .v false := rfl
theorem exec_nop : exec .nop s = inherent s .nop id := rfl
theorem exec_brk : exec .brk s =
    andThen (takeInterrupt s irqVector (brkReturn s) (brkStatus s)) fun t => .next (t.charge .brk 0) := rfl
theorem exec_rti : exec .rti s = inherent s .rti returnFromInterrupt := rfl
theorem exec_ill (op : Byte) : exec (.ill op) s = inherent s (.ill op) id := rfl

end

section
variable {s t : State}

theorem exec_lda_next {o : AluOperand} (h : exec (.lda o) s = .next t) :
    ∃ v, operandValue s o.operand = .next v ∧
      t = ((s.setA v).withZN v).charge (.lda o) (pageCrossCycles (.lda o) (resolve s o.operand).crossed) :=
  readOperand_next ((exec_lda s o).symm.trans h)
theorem exec_ldx_next {o : LdxOperand} (h : exec (.ldx o) s = .next t) :
    ∃ v, operandValue s o.operand = .next v ∧
      t = ((s.setX v).withZN v).charge (.ldx o) (pageCrossCycles (.ldx o) (resolve s o.operand).crossed) :=
  readOperand_next ((exec_ldx s o).symm.trans h)
theorem exec_ldy_next {o : LdyOperand} (h : exec (.ldy o) s = .next t) :
    ∃ v, operandValue s o.operand = .next v ∧
      t = ((s.setY v).withZN v).charge (.ldy o) (pageCrossCycles (.ldy o) (resolve s o.operand).crossed) :=
  readOperand_next ((exec_ldy s o).symm.trans h)
theorem exec_sta_next {o : StaOperand} (h : exec (.sta o) s = .next t) :
    ∃ u, busWrite s (resolve s o.operand).addr s.a = .next u ∧
      t = u.charge (.sta o) (pageCrossCycles (.sta o) (resolve s o.operand).crossed) :=
  storeOperand_next ((exec_sta s o).symm.trans h)
theorem exec_stx_next {o : StxOperand} (h : exec (.stx o) s = .next t) :
    ∃ u, busWrite s (resolve s o.operand).addr s.x = .next u ∧
      t = u.charge (.stx o) (pageCrossCycles (.stx o) (resolve s o.operand).crossed) :=
  storeOperand_next ((exec_stx s o).symm.trans h)
theorem exec_sty_next {o : StyOperand} (h : exec (.sty o) s = .next t) :
    ∃ u, busWrite s (resolve s o.operand).addr s.y = .next u ∧
      t = u.charge (.sty o) (pageCrossCycles (.sty o) (resolve s o.operand).crossed) :=
  storeOperand_next ((exec_sty s o).symm.trans h)
theorem exec_tax_next (h : exec .tax s = .next t) :
    t = ((s.setX s.a).withZN s.a).charge .tax 0 :=
  inherent_next ((exec_tax s).symm.trans h)
theorem exec_tay_next (h : exec .tay s = .next t) :
    t = ((s.setY s.a).withZN s.a).charge .tay 0 :=
  inherent_next ((exec_tay s).symm.trans h)
theorem exec_txa_next (h : exec .txa s = .next t) :
    t = ((s.setA s.x).withZN s.x).charge .txa 0 :=
  inherent_next ((exec_txa s).symm.trans h)
theorem exec_tya_next (h : exec .tya s = .next t) :
    t = ((s.setA s.y).withZN s.y).charge .tya 0 :=
  inherent_next ((exec_tya s).symm.trans h)
theorem exec_tsx_next (h : exec .tsx s = .next t) :
    t = ((s.setX s.sp).withZN s.sp).charge .tsx 0 :=
  inherent_next ((exec_tsx s).symm.trans h)
theorem exec_txs_next (h : exec .txs s = .next t) :
    t = (s.setSp s.x).charge .txs 0 :=
  inherent_next ((exec_txs s).symm.trans h)
theorem exec_adc_next {o : AluOperand} (h : exec (.adc o) s = .next t) :
    ∃ m, operandValue s o.operand = .next m ∧
      t = (s.addCore m).charge (.adc o) (pageCrossCycles (.adc o) (resolve s o.operand).crossed) :=
  readOperand_next ((exec_adc s o).symm.trans h)
theorem exec_sbc_next {o : AluOperand} (h : exec (.sbc o) s = .next t) :
    ∃ m, operandValue s o.operand = .next m ∧
      t = (s.addCore (m ^^^ 0xFF#8)).charge (.sbc o) (pageCrossCycles (.sbc o) (resolve s o.operand).crossed) :=
  readOperand_next ((exec_sbc s o).symm.trans h)
theorem exec_and_next {o : AluOperand} (h : exec (.and o) s = .next t) :
    ∃ m, operandValue s o.operand = .next m ∧
      t = ((s.setA (s.a &&& m)).withZN (s.a &&& m)).charge (.and o) (pageCrossCycles (.and o) (resolve s o.operand).crossed) :=
  readOperand_next ((exec_and s o).symm.trans h)
theorem exec_ora_next {o : AluOperand} (h : exec (.ora o) s = .next t) :
    ∃ m, operandValue s o.operand = .next m ∧
      t = ((s.setA (s.a ||| m)).withZN (s.a ||| m)).charge (.ora o) (pageCrossCycles (.ora o) (resolve s o.operand).crossed) :=
  readOperand_next ((exec_ora s o).symm.trans h)
theorem exec_eor_next {o : AluOperand} (h : exec (.eor o) s = .next t) :
    ∃ m, operandValue s o.operand = .next m ∧
      t = ((s.setA (s.a ^^^ m)).withZN (s.a ^^^ m)).charge (.eor o) (pageCrossCycles (.eor o) (resolve s o.operand).crossed) :=
  readOperand_next ((exec_eor s o).symm.trans h)
theorem exec_bit_next {o : BitOperand} (h : exec (.bit o) s = .next t) :
    ∃ m, operandValue s o.operand = .next m ∧
      t = (s.setP (bitTestStatus s.p s.a m)).charge (.bit o) (pageCrossCycles (.bit o) (resolve s o.operand).crossed) :=
  readOperand_next ((exec_bit s o).symm.trans h)
theorem exec_cmp_next {o : AluOperand} (h : exec (.cmp o) s = .next t) :
    ∃ m, operandValue s o.operand = .next m ∧
      t = (s.compare s.a m).charge (.cmp o) (pageCrossCycles (.cmp o) (resolve s o.operand).crossed) :=
  readOperand_next ((exec_cmp s o).symm.trans h)
theorem exec_cpx_next {o : CpxOperand} (h : exec (.cpx o) s = .next t) :
    ∃ m, operandValue s o.operand = .next m ∧
      t = (s.compare s.x m).charge (.cpx o) (pageCrossCycles (.cpx o) (resolve s o.operand).crossed) :=
  readOperand_next ((exec_cpx s o).symm.trans h)
theorem exec_cpy_next {o : CpxOperand} (h : exec (.cpy o) s = .next t) :
    ∃ m, operandValue s o.operand = .next m ∧
      t = (s.compare s.y m).charge (.cpy o) (pageCrossCycles (.cpy o) (resolve s o.operand).crossed) :=
  readOperand_next ((exec_cpy s o).symm.trans h)
theorem exec_inc_next {o : RmwOperand} (h : exec (.inc o) s = .next t) :
    ∃ v u, operandValue s o.operand = .next v ∧ busWrite s (resolve s o.operand).addr (v + 1) = .next u ∧
      t = (u.setP (withZN s.p (v + 1))).charge (.inc o) (pageCrossCycles (.inc o) (resolve s o.operand).crossed) :=
  modifyOperand_next ((exec_inc s o).symm.trans h)
theorem exec_dec_next {o : RmwOperand} (h : exec (.dec o) s = .next t) :
    ∃ v u, operandValue s o.operand = .next v ∧ busWrite s (resolve s o.operand).addr (v - 1) = .next u ∧
      t = (u.setP (withZN s.p (v - 1))).charge (.dec o) (pageCrossCycles (.dec o) (resolve s o.operand).crossed) :=
  modifyOperand_next ((exec_dec s o).symm.trans h)
theorem exec_inx_next (h : exec .inx s = .next t) :
    t = ((s.setX (s.x + 1)).withZN (s.x + 1)).charge .inx 0 :=
  inherent_next ((exec_inx s).symm.trans h)
theorem exec_iny_next (h : exec .iny s = .next t) :
    t = ((s.setY (s.y + 1)).withZN (s.y + 1)).charge .iny 0 :=
  inherent_next ((exec_iny s).symm.trans h)
theorem exec_dex_next (h : exec .dex s = .next t) :
    t = ((s.setX (s.x - 1)).withZN (s.x - 1)).charge .dex 0 :=
  inherent_next ((exec_dex s).symm.trans h)
theorem exec_dey_next (h : exec .dey s = .next t) :
    t = ((s.setY (s.y - 1)).withZN (s.y - 1)).charge .dey 0 :=
  inherent_next ((exec_dey s).symm.trans h)
theorem exec_asl_acc_next (h : exec (.asl .acc) s = .next t) :
    t = ((s.setA (shiftLeft s.a (s.flag .c)).1).setP
      (shiftStatus s.p (shiftLeft s.a (s.flag .c)).1 (shiftLeft s.a (s.flag .c)).2)).charge (.asl .acc) 0 :=
  shiftOp_acc_next ((exec_asl s .acc).symm.trans h)
theorem exec_asl_mem_next {o : RmwOperand} (h : exec (.asl (.mem o)) s = .next t) :
    ∃ v u, operandValue s o.operand = .next v ∧
      busWrite s (resolve s o.operand).addr (shiftLeft v (s.flag .c)).1 = .next u ∧
      t = (u.setP (shiftStatus s.p (shiftLeft v (s.flag .c)).1 (shiftLeft v (s.flag .c)).2)).charge (.asl (.mem o))
        (pageCrossCycles (.asl (.mem o)) (resolve s o.operand).crossed) :=
  shiftOp_mem_next ((exec_asl s (.mem o)).symm.trans h)
theorem exec_lsr_acc_next (h : exec (.lsr .acc) s = .next t) :
    t = ((s.setA (shiftRight s.a (s.flag .c)).1).setP
      (shiftStatus s.p (shiftRight s.a (s.flag .c)).1 (shiftRight s.a (s.flag .c)).2)).charge (.lsr .acc) 0 :=
  shiftOp_acc_next ((exec_lsr s .acc).symm.trans h)
theorem exec_lsr_mem_next {o : RmwOperand} (h : exec (.lsr (.mem o)) s = .next t) :
    ∃ v u, operandValue s o.operand = .next v ∧
      busWrite s (resolve s o.operand).addr (shiftRight v (s.flag .c)).1 = .next u ∧
      t = (u.setP (shiftStatus s.p (shiftRight v (s.flag .c)).1 (shiftRight v (s.flag .c)).2)).charge (.lsr (.mem o))
        (pageCrossCycles (.lsr (.mem o)) (resolve s o.operand).crossed) :=
  shiftOp_mem_next ((exec_lsr s (.mem o)).symm.trans h)
theorem exec_rol_acc_next (h : exec (.rol .acc) s = .next t) :
    t = ((s.setA (rotateLeft s.a (s.flag .c)).1).setP
      (shiftStatus s.p (rotateLeft s.a (s.flag .c)).1 (rotateLeft s.a (s.flag .c)).2)).charge (.rol .acc) 0 :=
  shiftOp_acc_next ((exec_rol s .acc).symm.trans h)
theorem exec_rol_mem_next {o : RmwOperand} (h : exec (.rol (.mem o)) s = .next t) :
    ∃ v u, operandValue s o.operand = .next v ∧
      busWrite s (resolve s o.operand).addr (rotateLeft v (s.flag .c)).1 = .next u ∧
      t = (u.setP (shiftStatus s.p (rotateLeft v (s.flag .c)).1 (rotateLeft v (s.flag .c)).2)).charge (.rol (.mem o))
        (pageCrossCycles (.rol (.mem o)) (resolve s o.operand).crossed) :=
  shiftOp_mem_next ((exec_rol s (.mem o)).symm.trans h)
theorem exec_ror_acc_next (h : exec (.ror .acc) s = .next t) :
    t = ((s.setA (rotateRight s.a (s.flag .c)).1).setP
      (shiftStatus s.p (rotateRight s.a (s.flag .c)).1 (rotateRight s.a (s.flag .c)).2)).charge (.ror .acc) 0 :=
  shiftOp_acc_next ((exec_ror s .acc).symm.trans h)
theorem exec_ror_mem_next {o : RmwOperand} (h : exec (.ror (.mem o)) s = .next t) :
    ∃ v u, operandValue s o.operand = .next v ∧
      busWrite s (resolve s o.operand).addr (rotateRight v (s.flag .c)).1 = .next u ∧
      t = (u.setP (shiftStatus s.p (rotateRight v (s.flag .c)).1 (rotateRight v (s.flag .c)).2)).charge (.ror (.mem o))
        (pageCrossCycles (.ror (.mem o)) (resolve s o.operand).crossed) :=
  shiftOp_mem_next ((exec_ror s (.mem o)).symm.trans h)
theorem exec_bcc_next {d : Byte} (h : exec (.bcc d) s = .next t) :
    ((!s.flag .c) = false ∧ t = s.charge (.bcc d) 0) ∨
      ((!s.flag .c) = true ∧ ∃ n, t = (s.setPc (s.pc + signExtend16 d)).charge (.bcc d) n) :=
  branch_next ((exec_bcc s d).symm.trans h)
theorem exec_bcs_next {d : Byte} (h : exec (.bcs d) s = .next t) :
    ((s.flag .c) = false ∧ t = s.charge (.bcs d) 0) ∨
      ((s.flag .c) = true ∧ ∃ n, t = (s.setPc (s.pc + signExtend16 d)).charge (.bcs d) n) :=
  branch_next ((exec_bcs s d).symm.trans h)
theorem exec_beq_next {d : Byte} (h : exec (.beq d) s = .next t) :
    ((s.flag .z) = false ∧ t = s.charge (.beq d) 0) ∨
      ((s.flag .z) = true ∧ ∃ n, t = (s.setPc (s.pc + signExtend16 d)).charge (.beq d) n) :=
  branch_next ((exec_beq s d).symm.trans h)
theorem exec_bne_next {d : Byte} (h : exec (.bne d) s = .next t) :
    ((!s.flag .z) = false ∧ t = s.charge (.bne d) 0) ∨
      ((!s.flag .z) = true ∧ ∃ n, t = (s.setPc (s.pc + signExtend16 d)).charge (.bne d) n) :=
  branch_next ((exec_bne s d).symm.trans h)
theorem exec_bmi_next {d : Byte} (h : exec (.bmi d) s = .next t) :
    ((s.flag .n) = false ∧ t = s.charge (.bmi d) 0) ∨
      ((s.flag .n) = true ∧ ∃ n, t = (s.setPc (s.pc + signExtend16 d)).charge (.bmi d) n) :=
  branch_next ((exec_bmi s d).symm.trans h)
theorem exec_bpl_next {d : Byte} (h : exec (.bpl d) s = .next t) :
    ((!s.flag .n) = false ∧ t = s.charge (.bpl d) 0) ∨
      ((!s.flag .n) = true ∧ ∃ n, t = (s.setPc (s.pc + signExtend16 d)).charge (.bpl d) n) :=
  branch_next ((exec_bpl s d).symm.trans h)
theorem exec_bvc_next {d : Byte} (h : exec (.bvc d) s = .next t) :
    ((!s.flag .v) = false ∧ t = s.charge (.bvc d) 0) ∨
      ((!s.flag .v) = true ∧ ∃ n, t = (s.setPc (s.pc + signExtend16 d)).charge (.bvc d) n) :=
  branch_next ((exec_bvc s d).symm.trans h)
theorem exec_bvs_next {d : Byte} (h : exec (.bvs d) s = .next t) :
    ((s.flag .v) = false ∧ t = s.charge (.bvs d) 0) ∨
      ((s.flag .v) = true ∧ ∃ n, t = (s.setPc (s.pc + signExtend16 d)).charge (.bvs d) n) :=
  branch_next ((exec_bvs s d).symm.trans h)
theorem exec_jmp_next {o : JmpOperand} (h : exec (.jmp o) s = .next t) :
    ∃ target, jumpTarget s o = .next target ∧ t = (s.setPc target).charge (.jmp o) 0 := by
  obtain ⟨target, hj, ht⟩ := andThen_eq_next.1 ((exec_jmp s o).symm.trans h)
  exact ⟨target, hj, by simpa using ht.symm⟩
theorem exec_jsr_next {w : Word} (h : exec (.jsr w) s = .next t) :
    t = (((s.push (hiByte (s.pc - 1))).push (loByte (s.pc - 1))).setPc w).charge (.jsr w) 0 :=
  inherent_next ((exec_jsr s w).symm.trans h)
theorem exec_rts_next (h : exec .rts s = .next t) :
    t = (s.pop.pop.setPc (mkWord s.pop.pulled s.pulled + 1)).charge .rts 0 :=
  inherent_next ((exec_rts s).symm.trans h)
theorem exec_pha_next (h : exec .pha s = .next t) :
    t = (s.push s.a).charge .pha 0 :=
  inherent_next ((exec_pha s).symm.trans h)
theorem exec_php_next (h : exec .php s = .next t) :
    t = (s.push (statusPushedByInstruction s.p)).charge .php 0 :=
  inherent_next ((exec_php s).symm.trans h)
theorem exec_pla_next (h : exec .pla s = .next t) :
    t = ((s.pop.setA s.pulled).withZN s.pulled).charge .pla 0 :=
  inherent_next ((exec_pla s).symm.trans h)
theorem exec_plp_next (h : exec .plp s = .next t) :
    t = (s.pop.setP (statusPulled s.pulled)).charge .plp 0 :=
  inherent_next ((exec_plp s).symm.trans h)
theorem exec_clc_next (h : exec .clc s = .next t) :
    t = (s.putFlag .c false).charge .clc 0 :=
  inherent_next ((exec_clc s).symm.trans h)
theorem exec_sec_next (h : exec .sec s = .next t) :
    t = (s.putFlag .c true).charge .sec 0 :=
  inherent_next ((exec_sec s).symm.trans h)
theorem exec_cli_next (h : exec .cli s = .next t) :
    t = (s.putFlag .i false).charge .cli 0 :=
  inherent_next ((exec_cli s).symm.trans h)
theorem exec_sei_next (h : exec .sei s = .next t) :
    t = (s.putFlag .i true).charge .sei 0 :=
  inherent_next ((exec_sei s).symm.trans h)
theorem exec_cld_next (h : exec .cld s = .next t) :
    t = (s.putFlag .d false).charge .cld 0 :=
  inherent_next ((exec_cld s).symm.trans h)
theorem exec_sed_next (h : exec .sed s = .next t) :
    t = (s.putFlag .d true).charge .sed 0 :=
  inherent_next ((exec_sed s).symm.trans h)
theorem exec_clv_next (h : exec .clv s = .next t) :
    t = (s.putFlag .v false).charge .clv 0 :=
  inherent_next ((exec_clv s).symm.trans h)
theorem exec_nop_next (h : exec .nop s = .next t) :
    t = s.charge .nop 0 :=
  inherent_next ((exec_nop s).symm.trans h)
theorem exec_brk_next (h : exec .brk s = .next t) :
    ∃ target, t = (((interruptFrame s (brkReturn s) (brkStatus s)).putFlag .i true).setPc target).charge .brk 0 := by
  obtain ⟨u, hu, ht⟩ := andThen_eq_next.1 ((exec_brk s).symm.trans h)
  obtain ⟨target, rfl⟩ := takeInterrupt_next hu
  exact ⟨target, by simpa using ht.symm⟩
theorem exec_rti_next (h : exec .rti s = .next t) :
    t = (returnFromInterrupt s).charge .rti 0 :=
  inherent_next ((exec_rti s).symm.trans h)
theorem exec_ill_next {op : Byte} (h : exec (.ill op) s = .next t) :
    t = s.charge (.ill op) 0 :=
  inherent_next ((exec_ill s op).symm.trans h)

end

end Sys2Proof.Machine
end

