-- ==== Sys2Proof/Laws/Step.lean ====
section
/-! SUPPORT. What fetching, the CPU's step, the clocks and `step` can do, so that no later proof unfolds
them. -/

namespace Sys2Proof.Machine

/-! ### Fetch and the CPU's step -/

/-- A fetched byte is the one the Bus reads at PC, and PC moves past it. -/
theorem fetchByte_next {s t : State} {b : Byte} (h : fetchByte s = .next (b, t)) :
    busRead s s.pc = .next b ∧ t = s.setPc (s.pc + 1) := by
  obtain ⟨v, hv, ht⟩ := andThen_eq_next.1 h
  simp only [Host.Outcome.next.injEq, Prod.mk.injEq] at ht
  obtain ⟨rfl, rfl⟩ := ht
  exact ⟨hv, rfl⟩

/-- A fetched instruction is one the decoder builds, and only PC moves. -/
theorem fetch_next {s t : State} {i : Instr} (h : fetch s = .next (i, t)) :
    ∃ w op b1 b2, i = decodeBytes op b1 b2 ∧ t = s.setPc w := by
  obtain ⟨⟨op, s1⟩, h1, h⟩ := andThen_eq_next.1 h
  obtain ⟨-, rfl⟩ := fetchByte_next h1
  simp only at h
  split at h
  · simp only [Host.Outcome.next.injEq, Prod.mk.injEq] at h
    exact ⟨_, op, 0, 0, h.1.symm, h.2.symm⟩
  · obtain ⟨⟨b1, s2⟩, h2, h⟩ := andThen_eq_next.1 h
    obtain ⟨-, rfl⟩ := fetchByte_next h2
    simp only [Host.Outcome.next.injEq, Prod.mk.injEq] at h
    exact ⟨_, op, b1, 0, h.1.symm, h.2.symm⟩
  · obtain ⟨⟨b1, s2⟩, h2, h⟩ := andThen_eq_next.1 h
    obtain ⟨-, rfl⟩ := fetchByte_next h2
    obtain ⟨⟨b2, s3⟩, h3, h⟩ := andThen_eq_next.1 h
    obtain ⟨-, rfl⟩ := fetchByte_next h3
    simp only [Host.Outcome.next.injEq, Prod.mk.injEq] at h
    exact ⟨_, op, b1, b2, h.1.symm, h.2.symm⟩

/-- A step of the CPU that goes on is the meaning of a decoded instruction with PC moved. -/
theorem cpuStep_next {s t : State} (h : cpuStep s = .next t) :
    ∃ w op b1 b2, exec (decodeBytes op b1 b2) (s.setPc w) = .next t := by
  obtain ⟨⟨i, u⟩, h1, h⟩ := andThen_eq_next.1 h
  obtain ⟨w, op, b1, b2, rfl, rfl⟩ := fetch_next h1
  exact ⟨w, op, b1, b2, h⟩

/-! ### The precondition of the operations that run the CPU -/

/-- An operation that runs the CPU goes on only on a powered core with a Mapper that has not faulted. -/
theorem whenRunning_next {α : Type} {s : State} {x : Result α} {v : α} (h : whenRunning s x = .next v) :
    s.faulted = false ∧ s.connected = true ∧ s.mapper.isSome = true ∧ x = .next v := by
  unfold whenRunning at h
  split at h
  · simp at h
  · split at h
    · simp at h
    · split at h
      · simp at h
      · next h1 h2 h3 =>
        refine ⟨by simpa using h1, by simpa using h2, ?_, h⟩
        cases hm : s.mapper <;> simp_all

/-- On such a core the precondition does nothing. -/
theorem whenRunning_eq {α : Type} {s : State} (hf : s.faulted = false) (hc : s.connected = true)
    (hm : s.mapper.isSome = true) (x : Result α) : whenRunning s x = x := by
  unfold whenRunning
  rw [hf, hc]
  cases h : s.mapper <;> simp_all

/-! ### The clocks -/

/-- A CPU clock while cycles are owed. -/
theorem cpuClock_owed {s : State} (h : s.cycles ≠ 0) : cpuClock s = .next (s.setCycles (s.cycles - 1)) := by
  simp [cpuClock, h]

/-- A CPU clock that performs an instruction. -/
theorem cpuClock_due {s : State} (h : s.cycles = 0) :
    cpuClock s = andThen (cpuStep s) fun t => .next (t.setCycles (t.cycles - 1)) := by
  simp [cpuClock, h]

/-- `step` on a powered core with a Mapper that has not faulted: one instruction at the master tick of the
CPU clock that is due (log 1). -/
theorem step_eq {s : State} (hf : s.faulted = false) (hc : s.connected = true) (hm : s.mapper.isSome = true) :
    step s = andThen (cpuStep ((s.setCycles 0).setMclk (3 * (s.mclk / 3 + s.cycles + 1))))
      fun t => .next (t.setCycles (t.cycles - 1)) := by
  have e : s.atNextFetch.mclk + 1 = 3 * (s.mclk / 3 + s.cycles + 1) := by
    show 3 * (s.mclk / 3 + s.cycles + 1) - 1 + 1 = _
    omega
  unfold step clock
  rw [whenRunning_eq (s := s.atNextFetch) hf hc hm, e, if_pos (by omega), cpuClock_due rfl]
  rfl

/-! ### The memory of reset -/

theorem reset_ram_wf : State.reset.ram.wf = true := rfl

theorem blank_wf : Cartridge.blank.wf = true := rfl

end Sys2Proof.Machine
end

