-- ==== Sys2Proof/Laws/HostOps.lean ====
section
/-! SUPPORT. What the host operations' preconditions, the transition of an operation and a session can do. -/

namespace Sys2Proof.Machine

/-! ### Preconditions -/

/-- An operation that needs no fault goes on only on a core that has not faulted. -/
theorem whenNotFaulted_next {α : Type} {s : State} {x : Result α} {v : α} (h : whenNotFaulted s x = .next v) :
    s.faulted = false ∧ x = .next v := by
  unfold whenNotFaulted at h
  split at h <;> simp_all

/-- An operation that reads an address goes on only when a Mapper is there for cartridge space. -/
theorem whenReadable_next {α : Type} {s : State} {a : Word} {x : Result α} {v : α}
    (h : whenReadable s a x = .next v) : (region a = .cartridge → s.mapper ≠ none) ∧ x = .next v := by
  unfold whenReadable at h
  split at h <;> simp_all

/-- Where a Mapper is there, or the address is not in cartridge space, the precondition does nothing. -/
theorem whenReadable_eq {α : Type} {s : State} {a : Word} (h : region a = .cartridge → s.mapper ≠ none)
    (x : Result α) : whenReadable s a x = x := by
  unfold whenReadable
  rw [if_neg (fun k => h k.1 k.2)]

theorem whenReadable_refused {α : Type} {s : State} {a : Word} (h : region a = .cartridge) (hm : s.mapper = none)
    (x : Result α) : whenReadable s a x = .refused .noMapper := by
  unfold whenReadable
  rw [if_pos ⟨h, hm⟩]

/-! ### The faulted state -/

section
variable (s : State) (op : HostOp)
@[simp] theorem State.afterFault_params : (s.afterFault op).params = s.params := rfl
@[simp] theorem State.afterFault_mapper : (s.afterFault op).mapper = s.mapper := rfl
@[simp] theorem State.afterFault_connected : (s.afterFault op).connected = s.connected := rfl
@[simp] theorem State.afterFault_faulted : (s.afterFault op).faulted = true := rfl
@[simp] theorem State.afterFault_p : (s.afterFault op).p = statusPulled (unspecifiedByte s op 4) := rfl
theorem State.afterFault_ram_wf : (s.afterFault op).ram.wf = true := Memory.wf_ofBytes _ _
theorem State.afterFault_ram_below : (s.afterFault op).ram.below 2048 = true := Memory.below_ofBytes _ (Nat.le_refl _)
end

/-! ### Transitions and sessions -/

/-- All the transition of an operation can be: its completion, or the faulted state. -/
theorem transition_next {op : HostOp} {s t : State} {r : HostReply} (h : transition op s = .next (t, r)) :
    (∃ q, hostOp op s = .next (t, q) ∧ r = .done q) ∨
      ∃ f, hostOp op s = .fault f ∧ t = s.afterFault op ∧ r = .faulted f := by
  unfold transition at h
  split at h
  · next u q hq =>
    simp only [Host.Outcome.next.injEq, Prod.mk.injEq] at h
    obtain ⟨rfl, rfl⟩ := h
    exact .inl ⟨q, hq, rfl⟩
  · next f hf =>
    simp only [Host.Outcome.next.injEq, Prod.mk.injEq] at h
    exact .inr ⟨f, hf, h.1.symm, h.2.symm⟩
  · simp at h

theorem transition_of_fault {op : HostOp} {s : State} {f : Fault} (h : hostOp op s = .fault f) :
    transition op s = .next (s.afterFault op, .faulted f) := by
  simp only [transition, h]

theorem transition_of_next {op : HostOp} {s t : State} {r : HostResult} (h : hostOp op s = .next (t, r)) :
    transition op s = .next (t, .done r) := by
  simp only [transition, h]

theorem transition_of_refused {op : HostOp} {s : State} {r : Refusal} (h : hostOp op s = .refused r) :
    transition op s = .refused r := by
  simp only [transition, h]

/-- A session that goes on makes its first transition and goes on from there. -/
theorem hostRunFrom_cons_next {w : Bool} {op : HostOp} {ops : List HostOp} {s t : State}
    (h : hostRunFrom w (op :: ops) s = .next t) :
    ¬ (w = true ∧ op = .nmi) ∧ ∃ u r, transition op s = .next (u, r) ∧
      hostRunFrom (irqPresented w op s) ops u = .next t := by
  obtain ⟨⟨u, r⟩, hu, h⟩ := andThen_eq_next.1 h
  dsimp only at h
  split at h
  · simp at h
  · next hw => exact ⟨hw, u, r, hu, h⟩

theorem hostRunFrom_cons_of {w : Bool} {op : HostOp} {s u : State} {r : HostReply} (ops : List HostOp)
    (hw : ¬ (w = true ∧ op = .nmi)) (h : transition op s = .next (u, r)) :
    hostRunFrom w (op :: ops) s = hostRunFrom (irqPresented w op s) ops u := by
  rw [hostRunFrom, h]
  exact if_neg hw

/-- An `nmi()` that the core accepts is refused by a session when an `irq()` stands before it in the window. -/
theorem hostRunFrom_nmi_after_irq {s u : State} {r : HostReply} (ops : List HostOp)
    (h : transition .nmi s = .next (u, r)) : hostRunFrom true (.nmi :: ops) s = .refused .nmiAfterIrq := by
  simp [hostRunFrom, h]

/-- A refused operation ends a session with its own reason, wherever it stands in a window. -/
theorem hostRunFrom_refused {w : Bool} {op : HostOp} {s : State} {r : Refusal} (ops : List HostOp)
    (h : transition op s = .refused r) : hostRunFrom w (op :: ops) s = .refused r := by
  rw [hostRunFrom, h, andThen_refused]

/-- A session that goes on can be cut anywhere. -/
theorem hostRunFrom_append_next : ∀ (ops : List HostOp) {w : Bool} {more : List HostOp} {s t : State},
    hostRunFrom w (ops ++ more) s = .next t →
    ∃ u w', hostRunFrom w ops s = .next u ∧ hostRunFrom w' more u = .next t
  | [], w, _, s, _, h => ⟨s, w, rfl, h⟩
  | op :: ops, w, more, s, t, h => by
    obtain ⟨hw, u, r, hu, h⟩ := hostRunFrom_cons_next h
    obtain ⟨v, w', hv, h⟩ := hostRunFrom_append_next ops h
    exact ⟨v, w', by rw [hostRunFrom_cons_of ops hw hu, hv], h⟩

end Sys2Proof.Machine
end

