-- ==== Sys2Proof/Laws/PerInstr.lean ====
section
/-! SUPPORT. Statements about every instruction as syntax, one lemma per constructor. -/

/-- The entry that the decoder's table holds at the encoder's opcode byte has the instruction's mnemonic
and mode: the two transcriptions of spec 30_encoding.md R85 agree. -/
def Sys2Proof.Laws.TableAgrees.Statement (i : Sys2Proof.Instr) : Prop :=
  i.wf = true → (Sys2Proof.entry i.opcode).mnemonic = i.mnemonic ∧ (Sys2Proof.entry i.opcode).mode = i.mode

namespace Sys2Proof.Laws.TableAgrees

/-- An illegal byte's entry is the placeholder. -/
theorem entry_of_illegal : ∀ op : Byte, isIllegalOpcode op = true →
    (entry op).mnemonic = .ill ∧ (entry op).mode = .imp := by decide

theorem lda (o : AluOperand) : Statement (.lda o) := by
  cases o <;> refine fun _ => ⟨?_, ?_⟩ <;>
    (simp only [Instr.opcode, Instr.mnemonic, Instr.mode, AluOperand.operand, AluOperand.select, Operand.mode]; rfl)
theorem ldx (o : LdxOperand) : Statement (.ldx o) := by
  cases o <;> refine fun _ => ⟨?_, ?_⟩ <;>
    (simp only [Instr.opcode, Instr.mnemonic, Instr.mode, LdxOperand.operand, LdxOperand.select, Operand.mode]; rfl)
theorem ldy (o : LdyOperand) : Statement (.ldy o) := by
  cases o <;> refine fun _ => ⟨?_, ?_⟩ <;>
    (simp only [Instr.opcode, Instr.mnemonic, Instr.mode, LdyOperand.operand, LdyOperand.select, Operand.mode]; rfl)
theorem sta (o : StaOperand) : Statement (.sta o) := by
  cases o <;> refine fun _ => ⟨?_, ?_⟩ <;>
    (simp only [Instr.opcode, Instr.mnemonic, Instr.mode, StaOperand.operand, StaOperand.select, Operand.mode]; rfl)
theorem stx (o : StxOperand) : Statement (.stx o) := by
  cases o <;> refine fun _ => ⟨?_, ?_⟩ <;>
    (simp only [Instr.opcode, Instr.mnemonic, Instr.mode, StxOperand.operand, StxOperand.select, Operand.mode]; rfl)
theorem sty (o : StyOperand) : Statement (.sty o) := by
  cases o <;> refine fun _ => ⟨?_, ?_⟩ <;>
    (simp only [Instr.opcode, Instr.mnemonic, Instr.mode, StyOperand.operand, StyOperand.select, Operand.mode]; rfl)
theorem tax : Statement .tax := fun _ => ⟨rfl, rfl⟩
theorem tay : Statement .tay := fun _ => ⟨rfl, rfl⟩
theorem txa : Statement .txa := fun _ => ⟨rfl, rfl⟩
theorem tya : Statement .tya := fun _ => ⟨rfl, rfl⟩
theorem tsx : Statement .tsx := fun _ => ⟨rfl, rfl⟩
theorem txs : Statement .txs := fun _ => ⟨rfl, rfl⟩
theorem adc (o : AluOperand) : Statement (.adc o) := by
  cases o <;> refine fun _ => ⟨?_, ?_⟩ <;>
    (simp only [Instr.opcode, Instr.mnemonic, Instr.mode, AluOperand.operand, AluOperand.select, Operand.mode]; rfl)
theorem sbc (o : AluOperand) : Statement (.sbc o) := by
  cases o <;> refine fun _ => ⟨?_, ?_⟩ <;>
    (simp only [Instr.opcode, Instr.mnemonic, Instr.mode, AluOperand.operand, AluOperand.select, Operand.mode]; rfl)
theorem and (o : AluOperand) : Statement (.and o) := by
  cases o <;> refine fun _ => ⟨?_, ?_⟩ <;>
    (simp only [Instr.opcode, Instr.mnemonic, Instr.mode, AluOperand.operand, AluOperand.select, Operand.mode]; rfl)
theorem ora (o : AluOperand) : Statement (.ora o) := by
  cases o <;> refine fun _ => ⟨?_, ?_⟩ <;>
    (simp only [Instr.opcode, Instr.mnemonic, Instr.mode, AluOperand.operand, AluOperand.select, Operand.mode]; rfl)
theorem eor (o : AluOperand) : Statement (.eor o) := by
  cases o <;> refine fun _ => ⟨?_, ?_⟩ <;>
    (simp only [Instr.opcode, Instr.mnemonic, Instr.mode, AluOperand.operand, AluOperand.select, Operand.mode]; rfl)
theorem bit (o : BitOperand) : Statement (.bit o) := by
  cases o <;> refine fun _ => ⟨?_, ?_⟩ <;>
    (simp only [Instr.opcode, Instr.mnemonic, Instr.mode, BitOperand.operand, BitOperand.select, Operand.mode]; rfl)
theorem cmp (o : AluOperand) : Statement (.cmp o) := by
  cases o <;> refine fun _ => ⟨?_, ?_⟩ <;>
    (simp only [Instr.opcode, Instr.mnemonic, Instr.mode, AluOperand.operand, AluOperand.select, Operand.mode]; rfl)
theorem cpx (o : CpxOperand) : Statement (.cpx o) := by
  cases o <;> refine fun _ => ⟨?_, ?_⟩ <;>
    (simp only [Instr.opcode, Instr.mnemonic, Instr.mode, CpxOperand.operand, CpxOperand.select, Operand.mode]; rfl)
theorem cpy (o : CpxOperand) : Statement (.cpy o) := by
  cases o <;> refine fun _ => ⟨?_, ?_⟩ <;>
    (simp only [Instr.opcode, Instr.mnemonic, Instr.mode, CpxOperand.operand, CpxOperand.select, Operand.mode]; rfl)
theorem inc (o : RmwOperand) : Statement (.inc o) := by
  cases o <;> refine fun _ => ⟨?_, ?_⟩ <;>
    (simp only [Instr.opcode, Instr.mnemonic, Instr.mode, RmwOperand.operand, RmwOperand.select, Operand.mode]; rfl)
theorem dec (o : RmwOperand) : Statement (.dec o) := by
  cases o <;> refine fun _ => ⟨?_, ?_⟩ <;>
    (simp only [Instr.opcode, Instr.mnemonic, Instr.mode, RmwOperand.operand, RmwOperand.select, Operand.mode]; rfl)
theorem inx : Statement .inx := fun _ => ⟨rfl, rfl⟩
theorem iny : Statement .iny := fun _ => ⟨rfl, rfl⟩
theorem dex : Statement .dex := fun _ => ⟨rfl, rfl⟩
theorem dey : Statement .dey := fun _ => ⟨rfl, rfl⟩
theorem asl (o : ShiftOperand) : Statement (.asl o) := by
  rcases o with _ | (_ | _ | _ | _) <;> refine fun _ => ⟨?_, ?_⟩ <;>
    (simp only [Instr.opcode, Instr.mnemonic, Instr.mode, ShiftOperand.mode,
      RmwOperand.select, RmwOperand.operand, Operand.mode]; rfl)
theorem lsr (o : ShiftOperand) : Statement (.lsr o) := by
  rcases o with _ | (_ | _ | _ | _) <;> refine fun _ => ⟨?_, ?_⟩ <;>
    (simp only [Instr.opcode, Instr.mnemonic, Instr.mode, ShiftOperand.mode,
      RmwOperand.select, RmwOperand.operand, Operand.mode]; rfl)
theorem rol (o : ShiftOperand) : Statement (.rol o) := by
  rcases o with _ | (_ | _ | _ | _) <;> refine fun _ => ⟨?_, ?_⟩ <;>
    (simp only [Instr.opcode, Instr.mnemonic, Instr.mode, ShiftOperand.mode,
      RmwOperand.select, RmwOperand.operand, Operand.mode]; rfl)
theorem ror (o : ShiftOperand) : Statement (.ror o) := by
  rcases o with _ | (_ | _ | _ | _) <;> refine fun _ => ⟨?_, ?_⟩ <;>
    (simp only [Instr.opcode, Instr.mnemonic, Instr.mode, ShiftOperand.mode,
      RmwOperand.select, RmwOperand.operand, Operand.mode]; rfl)
theorem bcc (d : Byte) : Statement (.bcc d) := by
  refine fun _ => ⟨?_, ?_⟩ <;> (simp only [Instr.opcode, Instr.mnemonic, Instr.mode]; rfl)
theorem bcs (d : Byte) : Statement (.bcs d) := by
  refine fun _ => ⟨?_, ?_⟩ <;> (simp only [Instr.opcode, Instr.mnemonic, Instr.mode]; rfl)
theorem beq (d : Byte) : Statement (.beq d) := by
  refine fun _ => ⟨?_, ?_⟩ <;> (simp only [Instr.opcode, Instr.mnemonic, Instr.mode]; rfl)
theorem bne (d : Byte) : Statement (.bne d) := by
  refine fun _ => ⟨?_, ?_⟩ <;> (simp only [Instr.opcode, Instr.mnemonic, Instr.mode]; rfl)
theorem bmi (d : Byte) : Statement (.bmi d) := by
  refine fun _ => ⟨?_, ?_⟩ <;> (simp only [Instr.opcode, Instr.mnemonic, Instr.mode]; rfl)
theorem bpl (d : Byte) : Statement (.bpl d) := by
  refine fun _ => ⟨?_, ?_⟩ <;> (simp only [Instr.opcode, Instr.mnemonic, Instr.mode]; rfl)
theorem bvc (d : Byte) : Statement (.bvc d) := by
  refine fun _ => ⟨?_, ?_⟩ <;> (simp only [Instr.opcode, Instr.mnemonic, Instr.mode]; rfl)
theorem bvs (d : Byte) : Statement (.bvs d) := by
  refine fun _ => ⟨?_, ?_⟩ <;> (simp only [Instr.opcode, Instr.mnemonic, Instr.mode]; rfl)
theorem jmp (o : JmpOperand) : Statement (.jmp o) := by
  cases o <;> refine fun _ => ⟨?_, ?_⟩ <;> (simp only [Instr.opcode, Instr.mnemonic, Instr.mode]; rfl)
theorem jsr (w : Word) : Statement (.jsr w) := by
  refine fun _ => ⟨?_, ?_⟩ <;> (simp only [Instr.opcode, Instr.mnemonic, Instr.mode]; rfl)
theorem rts : Statement .rts := fun _ => ⟨rfl, rfl⟩
theorem pha : Statement .pha := fun _ => ⟨rfl, rfl⟩
theorem php : Statement .php := fun _ => ⟨rfl, rfl⟩
theorem pla : Statement .pla := fun _ => ⟨rfl, rfl⟩
theorem plp : Statement .plp := fun _ => ⟨rfl, rfl⟩
theorem clc : Statement .clc := fun _ => ⟨rfl, rfl⟩
theorem sec : Statement .sec := fun _ => ⟨rfl, rfl⟩
theorem cli : Statement .cli := fun _ => ⟨rfl, rfl⟩
theorem sei : Statement .sei := fun _ => ⟨rfl, rfl⟩
theorem cld : Statement .cld := fun _ => ⟨rfl, rfl⟩
theorem sed : Statement .sed := fun _ => ⟨rfl, rfl⟩
theorem clv : Statement .clv := fun _ => ⟨rfl, rfl⟩
theorem nop : Statement .nop := fun _ => ⟨rfl, rfl⟩
theorem brk : Statement .brk := fun _ => ⟨rfl, rfl⟩
theorem rti : Statement .rti := fun _ => ⟨rfl, rfl⟩
theorem ill (op : Byte) : Statement (.ill op) := entry_of_illegal op

end Sys2Proof.Laws.TableAgrees
end

