-- ==== Sys2Proof/Laws/Safety.lean ====
section
/-! SUPPORT. Lemmas about the terms claims use. -/

namespace Sys2Proof.Machine

/-- A read of the Bus at an accessible address goes on with the byte there. -/
theorem busRead_of_accessible {s : State} {a : Word} (h : accessible s a = true) :
    busRead s a = .next (byteAt s a) := by
  unfold accessible at h; unfold busRead byteAt
  cases hr : region a <;> simp_all
  cases hm : s.mapper <;> simp_all

/-- A write of the Bus at an accessible address changes RAM alone. -/
theorem busWrite_of_accessible {s : State} {a : Word} (v : Byte) (h : accessible s a = true) :
    busWrite s a v = .next { s with ram := ramAfterStore s a v } := by
  unfold accessible at h; unfold busWrite ramAfterStore
  cases hr : region a <;> simp_all [State.setRam]
  cases hm : s.mapper <;> simp_all [State.setMapper]

/-- An operand that is ready has its byte. -/
theorem operandValue_of_ready {s : State} {o : Operand} (h : operandReady s o = true) :
    operandValue s o = .next (operandByte s o) := by
  cases o <;> first | rfl | exact busRead_of_accessible h

/-- An operand in the disabled region faults. -/
theorem operandValue_of_disabled {s : State} {o : Operand} (h : operandDisabled s o = true) :
    operandValue s o = .fault (.busFault (resolve s o).addr) := by
  cases o <;> first | exact Bool.noConfusion (show false = true from h) | exact busRead_disabled (of_decide_eq_true h)

/-- An instruction that reads an operand that is ready. -/
theorem readOperand_of_ready {s : State} {i : Instr} {o : Operand} {f : State → Byte → State}
    (h : operandReady s o = true) :
    readOperand s i o f = .next ((f s (operandByte s o)).charge i (crossingCycles s i o)) := by
  simp only [readOperand, operandValue_of_ready h, andThen_next, crossingCycles]

/-- The cost of an instruction with a data operand. -/
theorem charge_crossing {s t : State} (i : Instr) (o : Operand) (hc : t.cycles = s.cycles)
    (hp : t.params = s.params) :
    t.charge i (crossingCycles s i o) = { t with cycles := cyclesAfter s i o } := by
  simp only [State.charge, State.setCycles, cyclesAfter, hc, hp]

/-- A form from its opcode byte and the table entry of that byte. -/
theorem hasForm_of {i : Instr} {op : Byte} {bytes : List Byte} {n : Nat} {eligible : Bool} (h : i.opcode = op)
    (hb : i.operandBytes = bytes) (hc : (entry op).cost = .fixed n)
    (he : decide ((entry op).extra = .pageCross) = eligible) : hasForm i (op :: bytes) n eligible := by
  refine ⟨by rw [encode, h, hb], fun ps => ?_, fun c => ?_⟩
  · simp [baseCycles, h, hc]
  · simp [pageCrossCycles, h, ← he]

/-! ### Flags -/

theorem flagsBecome_withZN (p v : Byte) : flagsBecome p (withZN p v) (znOf v) := by
  intro f; cases f <;> simp [getFlag_withZN, znOf, listedOr]

theorem flagsBecome_putFlag (p : Byte) (f : Flag) (v : Bool) : flagsBecome p (putFlag p f v) [(f, v)] := by
  intro g; simp [getFlag_putFlag, listedOr]

theorem flagsBecome_shiftStatus (p r : Byte) (c : Bool) :
    flagsBecome p (shiftStatus p r c) ((.c, c) :: znOf r) := by
  intro f; cases f <;> simp [shiftStatus, getFlag_withZN, getFlag_putFlag, znOf, listedOr]

/-! ### Running -/

/-- A running core is powered, has a Mapper and has not faulted. -/
theorem running_iff {s : State} :
    running s = true ↔ s.faulted = false ∧ s.connected = true ∧ s.mapper.isSome = true := by
  unfold running
  cases s.faulted <;> cases s.connected <;> cases s.mapper <;> simp

/-- A run is over where its predicate is met. -/
theorem RunsTo.here {s : State} {stop : State → Prop} (hf : s.faulted = false) (h : stop s) : RunsTo s stop :=
  ⟨0, s, rfl, hf, h⟩

/-- A master tick before a safe run. -/
theorem RunsTo.of_clock {s t : State} {stop : State → Prop} (hc : clock s = .next t) (h : RunsTo t stop) :
    RunsTo s stop := by
  obtain ⟨k, u, hk, hu⟩ := h
  exact ⟨k + 1, u, by rw [ticks, hc]; exact hk, hu⟩

end Sys2Proof.Machine
end

