-- ==== Sys2Proof/Tests/Slice0.lean ====
section
/-! SUPPORT. Tests: the smoke test of WellFormed, decoded words, one step for the instructions, and for each
statement with hypotheses a state and operands that meet them. The expected results are those of the spec's
test vectors (95_test_vectors.md, named T<n>.<m> in the docstrings) or are read from the rule named. -/

namespace Sys2Proof.Machine.Tests

/-! ### Helpers -/

/-- A list of bytes at a place and up, in a memory. -/
def fill (m : Memory) : Nat → List Byte → Memory
  | _, [] => m
  | a, b :: bs => fill (m.write a b) (a + 1) bs

/-- A cartridge of one bank with code at a CPU address and the vectors of the spec's test vectors: NMI at
0xA000, reset at 0x8000, IRQ and BRK at 0x9000. -/
def cart (pc : Nat) (code : List Byte) : Cartridge :=
  { Cartridge.blank with prg := fill (fill [] 0x3FFA [0x00, 0xA0, 0x00, 0x80, 0x00, 0x90]) (pc % 0x4000) code }

/-- The state after reset with its 8 cycles over, code at PC, and some bytes of RAM. -/
def at0 (pc : Nat) (code : List Byte) (ram : List (Nat × Byte)) : State :=
  { State.reset with
    pc := BitVec.ofNat 16 pc
    cycles := 0
    ram := ram.foldl (fun m c => m.write c.1 c.2) []
    mapper := some (.direct (cart pc code)) }

/-- Something of the state after one step. -/
def after {α : Type} (s : State) (f : State → α) : Option α :=
  match step s with
  | .next t => some (f t)
  | .fault _ | .refused _ => none

/-- Something of the state and the result after one host operation. -/
def afterOp {α : Type} (op : HostOp) (s : State) (f : State → HostResult → α) : Option α :=
  match hostOp op s with
  | .next (t, r) => some (f t r)
  | .fault _ | .refused _ => none

/-! ### WellFormed -/

/-- 0xA9 is LDA's byte, so `ill 0xA9` stands for no row of the table. -/
theorem test_wf_refuses_a_legal_byte : (Instr.ill 0xA9#8).wf = false := by decide

/-- 0x02 is one of the bytes that R87 lists. -/
theorem test_wf_accepts_an_illegal_byte : (Instr.ill 0x02#8).wf = true := by decide

/-! ### Decoding -/

/-- Opcode bytes from the matrix of spec 30_encoding.md R85, operand bytes low first (R84). -/
theorem test_decode_loads_and_stores :
    decodeTableWord 16 0x42A9 = some (.lda (.imm 0x42#8)) ∧
    decodeTableWord 16 0x10B6 = some (.ldx (.zpy 0x10#8)) ∧
    decodeTableWord 24 0x0234BC = some (.ldy (.abx 0x0234#16)) ∧
    decodeTableWord 24 0x023499 = some (.sta (.aby 0x0234#16)) ∧
    decodeTableWord 24 0x02348E = some (.stx (.abs 0x0234#16)) ∧
    decodeTableWord 16 0x1094 = some (.sty (.zpx 0x10#8)) := by decide

/-- Opcode bytes from the matrix of spec 30_encoding.md R85, operand bytes low first (R84). -/
theorem test_decode_transfers :
    decodeTableWord 8 0xAA = some (.tax) ∧
    decodeTableWord 8 0xA8 = some (.tay) ∧
    decodeTableWord 8 0x8A = some (.txa) ∧
    decodeTableWord 8 0x98 = some (.tya) ∧
    decodeTableWord 8 0xBA = some (.tsx) ∧
    decodeTableWord 8 0x9A = some (.txs) := by decide

/-- Opcode bytes from the matrix of spec 30_encoding.md R85, operand bytes low first (R84). -/
theorem test_decode_arithmetic :
    decodeTableWord 16 0x1061 = some (.adc (.izx 0x10#8)) ∧
    decodeTableWord 16 0x10F1 = some (.sbc (.izy 0x10#8)) ∧
    decodeTableWord 16 0x1025 = some (.and (.zp0 0x10#8)) ∧
    decodeTableWord 24 0x02341D = some (.ora (.abx 0x0234#16)) ∧
    decodeTableWord 16 0x1049 = some (.eor (.imm 0x10#8)) ∧
    decodeTableWord 24 0x02342C = some (.bit (.abs 0x0234#16)) ∧
    decodeTableWord 24 0x0234D9 = some (.cmp (.aby 0x0234#16)) ∧
    decodeTableWord 16 0x10E0 = some (.cpx (.imm 0x10#8)) ∧
    decodeTableWord 16 0x10C4 = some (.cpy (.zp0 0x10#8)) := by decide

/-- Opcode bytes from the matrix of spec 30_encoding.md R85, operand bytes low first (R84). -/
theorem test_decode_increments :
    decodeTableWord 24 0x0234FE = some (.inc (.abx 0x0234#16)) ∧
    decodeTableWord 16 0x10D6 = some (.dec (.zpx 0x10#8)) ∧
    decodeTableWord 8 0xE8 = some (.inx) ∧
    decodeTableWord 8 0xC8 = some (.iny) ∧
    decodeTableWord 8 0xCA = some (.dex) ∧
    decodeTableWord 8 0x88 = some (.dey) := by decide

/-- Opcode bytes from the matrix of spec 30_encoding.md R85, operand bytes low first (R84). -/
theorem test_decode_shifts :
    decodeTableWord 8 0x0A = some (.asl .acc) ∧
    decodeTableWord 16 0x1046 = some (.lsr (.mem (.zp0 0x10#8))) ∧
    decodeTableWord 24 0x02342E = some (.rol (.mem (.abs 0x0234#16))) ∧
    decodeTableWord 24 0x02347E = some (.ror (.mem (.abx 0x0234#16))) := by decide

/-- Opcode bytes from the matrix of spec 30_encoding.md R85, operand bytes low first (R84). -/
theorem test_decode_branches :
    decodeTableWord 16 0x0290 = some (.bcc 0x02#8) ∧
    decodeTableWord 16 0xFEB0 = some (.bcs 0xFE#8) ∧
    decodeTableWord 16 0x02F0 = some (.beq 0x02#8) ∧
    decodeTableWord 16 0x02D0 = some (.bne 0x02#8) ∧
    decodeTableWord 16 0x8030 = some (.bmi 0x80#8) ∧
    decodeTableWord 16 0x7F10 = some (.bpl 0x7F#8) ∧
    decodeTableWord 16 0x0250 = some (.bvc 0x02#8) ∧
    decodeTableWord 16 0x0270 = some (.bvs 0x02#8) := by decide

/-- Opcode bytes from the matrix of spec 30_encoding.md R85, operand bytes low first (R84). -/
theorem test_decode_jumps :
    decodeTableWord 24 0x12344C = some (.jmp (.abs 0x1234#16)) ∧
    decodeTableWord 24 0x02FF6C = some (.jmp (.ind 0x02FF#16)) ∧
    decodeTableWord 24 0x900020 = some (.jsr 0x9000#16) ∧
    decodeTableWord 8 0x60 = some (.rts) := by decide

/-- Opcode bytes from the matrix of spec 30_encoding.md R85, operand bytes low first (R84). -/
theorem test_decode_stack_and_flags :
    decodeTableWord 8 0x48 = some (.pha) ∧
    decodeTableWord 8 0x08 = some (.php) ∧
    decodeTableWord 8 0x68 = some (.pla) ∧
    decodeTableWord 8 0x28 = some (.plp) ∧
    decodeTableWord 8 0x18 = some (.clc) ∧
    decodeTableWord 8 0x38 = some (.sec) ∧
    decodeTableWord 8 0x58 = some (.cli) ∧
    decodeTableWord 8 0x78 = some (.sei) ∧
    decodeTableWord 8 0xD8 = some (.cld) ∧
    decodeTableWord 8 0xF8 = some (.sed) ∧
    decodeTableWord 8 0xB8 = some (.clv) ∧
    decodeTableWord 8 0xEA = some (.nop) ∧
    decodeTableWord 8 0x00 = some (.brk) ∧
    decodeTableWord 8 0x40 = some (.rti) ∧
    decodeTableWord 8 0x02 = some (.ill 0x02#8) := by decide

/-- Missing operand bytes are rejected by name (spec 30_encoding.md R80). -/
theorem test_decode_truncated : decode [0xAD#8, 0x34#8] = .error (.truncated 0xAD#8) ∧ decode [] = .error .noBytes := by
  exact ⟨rfl, rfl⟩

/-! ### One step -/

/-- T3.1. -/
theorem test_lda_imm : after (at0 0x8000 [0xA9, 0x42] [])
    (fun t => (t.a, t.p, t.pc, t.cycles)) = some (0x42#8, 0x20#8, 0x8002#16, 1) := by decide

/-- T3.9. -/
theorem test_lda_abx_cross : after { at0 0x8000 [0xBD, 0xF0, 0x02] [(0x300, 0x22)] with x := 0x10#8 }
    (fun t => (t.a, t.cycles)) = some (0x22#8, 4) := by decide

/-- T3.6. -/
theorem test_ldx_zpy_wraps : after { at0 0x8000 [0xB6, 0xFF] [(0x000, 0x33), (0x100, 0xEE)] with y := 0x01#8 }
    (fun t => (t.x, t.p, t.cycles)) = some (0x33#8, 0x20#8, 3) := by decide

/-- T3.30. -/
theorem test_ldy_abx_cross : after { at0 0x8000 [0xBC, 0xFF, 0x02] [(0x300, 0x0C)] with x := 0x01#8 }
    (fun t => (t.y, t.cycles)) = some (0x0C#8, 4) := by decide

/-- T3.19. -/
theorem test_sta_izy : after { at0 0x8000 [0x91, 0x40] [(0x040, 0xF8), (0x041, 0x02)] with a := 0x5B#8, y := 0x10#8 }
    (fun t => (t.ram.read 0x308, t.cycles)) = some (0x5B#8, 5) := by decide

/-- T3.20. -/
theorem test_sta_mirror : after { at0 0x8000 [0x8D, 0x00, 0x18] [] with a := 0x77#8 }
    (fun t => (t.ram.read 0x000, t.cycles)) = some (0x77#8, 3) := by decide

/-- T3.24. -/
theorem test_stx_zpy : after { at0 0x8000 [0x96, 0x80] [] with x := 0x12#8, y := 0x90#8 }
    (fun t => (t.ram.read 0x010, t.cycles)) = some (0x12#8, 3) := by decide

/-- T3.25. -/
theorem test_sty_zpx : after { at0 0x8000 [0x94, 0x80] [] with x := 0x90#8, y := 0x13#8 }
    (fun t => (t.ram.read 0x010, t.cycles)) = some (0x13#8, 3) := by decide

/-- T3.26. -/
theorem test_tax : after { at0 0x8000 [0xAA] [] with a := 0x80#8 }
    (fun t => (t.x, t.p, t.cycles)) = some (0x80#8, 0xA0#8, 1) := by decide

/-- R137. -/
theorem test_tay : after { at0 0x8000 [0xA8] [] with a := 0x80#8 }
    (fun t => (t.y, t.p, t.cycles)) = some (0x80#8, 0xA0#8, 1) := by decide

/-- T3.27. -/
theorem test_txa : after { at0 0x8000 [0x8A] [] with a := 0x55#8, x := 0x00#8 }
    (fun t => (t.a, t.p, t.cycles)) = some (0x00#8, 0x22#8, 1) := by decide

/-- R139. -/
theorem test_tya : after { at0 0x8000 [0x98] [] with y := 0x80#8 }
    (fun t => (t.a, t.p, t.cycles)) = some (0x80#8, 0xA0#8, 1) := by decide

/-- T3.28. -/
theorem test_tsx : after (at0 0x8000 [0xBA] [])
    (fun t => (t.x, t.p, t.cycles)) = some (0xFD#8, 0xA0#8, 1) := by decide

/-- T3.29. -/
theorem test_txs : after { at0 0x8000 [0x9A] [] with x := 0x00#8 }
    (fun t => (t.sp, t.p, t.cycles)) = some (0x00#8, 0x20#8, 1) := by decide

/-- T4.1. -/
theorem test_adc_overflow : after { at0 0x8000 [0x69, 0x50] [] with a := 0x50#8 }
    (fun t => (t.a, t.p, t.cycles)) = some (0xA0#8, 0xE0#8, 1) := by decide

/-- T4.18. -/
theorem test_adc_decimal : after { at0 0x8000 [0x69, 0x01] [] with a := 0x09#8, p := 0x28#8 }
    (fun t => (t.a, t.p, t.cycles)) = some (0x0A#8, 0x28#8, 1) := by decide

/-- T4.11. -/
theorem test_sbc_overflow : after { at0 0x8000 [0xE9, 0xB0] [] with a := 0x50#8, p := 0x21#8 }
    (fun t => (t.a, t.p, t.cycles)) = some (0xA0#8, 0xE0#8, 1) := by decide

/-- T4.15. -/
theorem test_sbc_borrow : after { at0 0x8000 [0xE9, 0x40] [] with a := 0x40#8, p := 0x20#8 }
    (fun t => (t.a, t.p, t.cycles)) = some (0xFF#8, 0xA0#8, 1) := by decide

/-- T5.2. -/
theorem test_and_imm : after { at0 0x8000 [0x29, 0xF0] [] with a := 0x90#8, p := 0x21#8 }
    (fun t => (t.a, t.p, t.cycles)) = some (0x90#8, 0xA1#8, 1) := by decide

/-- T5.3. -/
theorem test_ora_imm : after { at0 0x8000 [0x09, 0x80] [] with a := 0x01#8 }
    (fun t => (t.a, t.p, t.cycles)) = some (0x81#8, 0xA0#8, 1) := by decide

/-- T5.6. -/
theorem test_eor_imm : after { at0 0x8000 [0x49, 0xFF] [] with a := 0x0F#8 }
    (fun t => (t.a, t.p, t.cycles)) = some (0xF0#8, 0xA0#8, 1) := by decide

/-- T5.7. -/
theorem test_bit_zp0 : after { at0 0x8000 [0x24, 0x10] [(0x010, 0xC0)] with a := 0x01#8 }
    (fun t => (t.a, t.p, t.cycles)) = some (0x01#8, 0xE2#8, 2) := by decide

/-- T5.9. -/
theorem test_bit_abs : after { at0 0x8000 [0x2C, 0x00, 0x03] [(0x300, 0x40)] with a := 0x40#8 }
    (fun t => (t.a, t.p, t.cycles)) = some (0x40#8, 0x60#8, 3) := by decide

/-- T5.13. -/
theorem test_cmp_keeps_v : after { at0 0x8000 [0xC9, 0x01] [] with a := 0x81#8, p := 0x60#8 }
    (fun t => (t.a, t.p, t.cycles)) = some (0x81#8, 0xE1#8, 1) := by decide

/-- T5.16. -/
theorem test_cpx_imm : after { at0 0x8000 [0xE0, 0x10] [] with x := 0x20#8 }
    (fun t => (t.x, t.p, t.cycles)) = some (0x20#8, 0x21#8, 1) := by decide

/-- T5.17. -/
theorem test_cpy_zp0 : after { at0 0x8000 [0xC4, 0x10] [(0x010, 0x01)] with y := 0x00#8 }
    (fun t => (t.y, t.p, t.cycles)) = some (0x00#8, 0xA0#8, 2) := by decide

/-- T6.1. -/
theorem test_inc_wraps : after (at0 0x8000 [0xE6, 0x10] [(0x010, 0xFF)])
    (fun t => (t.ram.read 0x010, t.p, t.cycles)) = some (0x00#8, 0x22#8, 4) := by decide

/-- T6.5. -/
theorem test_inc_abx : after { at0 0x8000 [0xFE, 0xFF, 0x02] [(0x300, 0x41)] with x := 0x01#8 }
    (fun t => (t.ram.read 0x300, t.p, t.cycles)) = some (0x42#8, 0x20#8, 6) := by decide

/-- T6.3. -/
theorem test_dec_wraps : after (at0 0x8000 [0xC6, 0x10] [(0x010, 0x00)])
    (fun t => (t.ram.read 0x010, t.p, t.cycles)) = some (0xFF#8, 0xA0#8, 4) := by decide

/-- T6.7. -/
theorem test_inx : after { at0 0x8000 [0xE8] [] with x := 0xFF#8 }
    (fun t => (t.x, t.p, t.cycles)) = some (0x00#8, 0x22#8, 1) := by decide

/-- T6.8. -/
theorem test_iny : after { at0 0x8000 [0xC8] [] with y := 0x7F#8 }
    (fun t => (t.y, t.p, t.cycles)) = some (0x80#8, 0xA0#8, 1) := by decide

/-- T6.9. -/
theorem test_dex : after { at0 0x8000 [0xCA] [] with x := 0x00#8 }
    (fun t => (t.x, t.p, t.cycles)) = some (0xFF#8, 0xA0#8, 1) := by decide

/-- T6.10. -/
theorem test_dey : after { at0 0x8000 [0x88] [] with y := 0x01#8 }
    (fun t => (t.y, t.p, t.cycles)) = some (0x00#8, 0x22#8, 1) := by decide

/-- T7.1. -/
theorem test_asl_acc : after { at0 0x8000 [0x0A] [] with a := 0x81#8 }
    (fun t => (t.a, t.p, t.cycles)) = some (0x02#8, 0x21#8, 1) := by decide

/-- T7.12. -/
theorem test_asl_zp0 : after { at0 0x8000 [0x06, 0x10] [(0x010, 0xC0)] with a := 0x55#8 }
    (fun t => (t.a, t.ram.read 0x010, t.p, t.cycles)) = some (0x55#8, 0x80#8, 0xA1#8, 4) := by decide

/-- T7.5. -/
theorem test_lsr_acc : after { at0 0x8000 [0x4A] [] with a := 0xFE#8, p := 0xA1#8 }
    (fun t => (t.a, t.p, t.cycles)) = some (0x7F#8, 0x20#8, 1) := by decide

/-- T7.13. -/
theorem test_lsr_abx : after { at0 0x8000 [0x5E, 0xFF, 0x02] [(0x300, 0x03)] with x := 0x01#8 }
    (fun t => (t.a, t.ram.read 0x300, t.p, t.cycles)) = some (0x00#8, 0x01#8, 0x21#8, 6) := by decide

/-- T7.6. -/
theorem test_rol_acc : after { at0 0x8000 [0x2A] [] with a := 0x80#8, p := 0x21#8 }
    (fun t => (t.a, t.p, t.cycles)) = some (0x01#8, 0x21#8, 1) := by decide

/-- T7.15. -/
theorem test_rol_abs : after { at0 0x8000 [0x2E, 0x00, 0x03] [(0x300, 0x7F)] with p := 0x21#8 }
    (fun t => (t.ram.read 0x300, t.p, t.cycles)) = some (0xFF#8, 0xA0#8, 5) := by decide

/-- T7.9. -/
theorem test_ror_acc : after { at0 0x8000 [0x6A] [] with a := 0x01#8, p := 0x21#8 }
    (fun t => (t.a, t.p, t.cycles)) = some (0x80#8, 0xA1#8, 1) := by decide

/-- T7.14. -/
theorem test_ror_zp0 : after { at0 0x8000 [0x66, 0x10] [(0x010, 0x02)] with p := 0x21#8 }
    (fun t => (t.ram.read 0x010, t.p, t.cycles)) = some (0x81#8, 0xA0#8, 4) := by decide

/-- T8.5. -/
theorem test_bcc_cross : after (at0 0x80FD [0x90, 0x02] [])
    (fun t => (t.pc, t.cycles)) = some (0x8101#16, 3) := by decide

/-- T8.6. -/
theorem test_bcs_no_cross : after { at0 0x80FE [0xB0, 0x00] [] with p := 0x21#8 }
    (fun t => (t.pc, t.cycles)) = some (0x8100#16, 2) := by decide

/-- T8.4. -/
theorem test_beq_back : after { at0 0x8000 [0xF0, 0xFE] [] with p := 0x22#8 }
    (fun t => (t.pc, t.cycles)) = some (0x8000#16, 2) := by decide

/-- T8.2. -/
theorem test_bne_not_taken : after { at0 0x8000 [0xD0, 0x02] [] with p := 0x22#8 }
    (fun t => (t.pc, t.cycles)) = some (0x8002#16, 1) := by decide

/-- T8.7. -/
theorem test_bmi_back : after { at0 0x8100 [0x30, 0xFD] [] with p := 0xA0#8 }
    (fun t => (t.pc, t.cycles)) = some (0x80FF#16, 3) := by decide

/-- T8.12. -/
theorem test_bpl_wraps : after (at0 0xFFEE [0x10, 0x10] [])
    (fun t => (t.pc, t.cycles)) = some (0x0000#16, 3) := by decide

/-- T8.9. -/
theorem test_bvc : after (at0 0x8000 [0x50, 0x7F] [])
    (fun t => (t.pc, t.cycles)) = some (0x8081#16, 2) := by decide

/-- T8.10. -/
theorem test_bvs : after { at0 0x8080 [0x70, 0x7F] [] with p := 0x60#8 }
    (fun t => (t.pc, t.cycles)) = some (0x8101#16, 3) := by decide

/-- T9.1. -/
theorem test_jmp_abs : after (at0 0x8000 [0x4C, 0x34, 0x12] [])
    (fun t => (t.pc, t.cycles)) = some (0x1234#16, 2) := by decide

/-- T9.3. -/
theorem test_jmp_ind_page : after (at0 0x8000 [0x6C, 0xFF, 0x02] [(0x200, 0x12), (0x2FF, 0x34), (0x300, 0x56)])
    (fun t => (t.pc, t.cycles)) = some (0x1234#16, 4) := by decide

/-- T9.6. -/
theorem test_jsr : after { at0 0x8000 [0x20, 0x00, 0x90] [] with sp := 0x00#8 }
    (fun t => (t.pc, t.sp, t.ram.read 0x100, t.ram.read 0x1FF, t.cycles)) = some (0x9000#16, 0xFE#8, 0x80#8, 0x02#8, 5) := by decide

/-- T9.9. -/
theorem test_rts : after { at0 0x8000 [0x60] [(0x100, 0x10), (0x101, 0x90)] with sp := 0xFF#8 }
    (fun t => (t.pc, t.sp, t.cycles)) = some (0x9011#16, 0x01#8, 5) := by decide

/-- T10.2. -/
theorem test_pha : after { at0 0x8000 [0x48] [] with a := 0x5A#8, sp := 0x00#8 }
    (fun t => (t.sp, t.ram.read 0x100, t.cycles)) = some (0xFF#8, 0x5A#8, 2) := by decide

/-- T10.6. -/
theorem test_php : after { at0 0x8000 [0x08] [] with p := 0xE3#8 }
    (fun t => (t.sp, t.p, t.ram.read 0x1FD, t.cycles)) = some (0xFC#8, 0xE3#8, 0xF3#8, 2) := by decide

/-- T10.4. -/
theorem test_pla : after { at0 0x8000 [0x68] [(0x100, 0x00)] with sp := 0xFF#8, a := 0x55#8 }
    (fun t => (t.a, t.sp, t.p, t.cycles)) = some (0x00#8, 0x00#8, 0x22#8, 3) := by decide

/-- T10.7. -/
theorem test_plp : after { at0 0x8000 [0x28] [(0x1FD, 0x00)] with sp := 0xFC#8, p := 0xE3#8 }
    (fun t => (t.sp, t.p, t.cycles)) = some (0xFD#8, 0x20#8, 3) := by decide

/-- T10.10. -/
theorem test_clc : after { at0 0x8000 [0x18] [] with p := 0xE3#8 }
    (fun t => (t.p, t.cycles)) = some (0xE2#8, 1) := by decide

/-- T10.11. -/
theorem test_sec : after (at0 0x8000 [0x38] [])
    (fun t => (t.p, t.cycles)) = some (0x21#8, 1) := by decide

/-- T10.12. -/
theorem test_cli : after { at0 0x8000 [0x58] [] with p := 0x24#8 }
    (fun t => (t.p, t.cycles)) = some (0x20#8, 1) := by decide

/-- T10.13. -/
theorem test_sei : after (at0 0x8000 [0x78] [])
    (fun t => (t.p, t.cycles)) = some (0x24#8, 1) := by decide

/-- T10.14. -/
theorem test_cld : after { at0 0x8000 [0xD8] [] with p := 0x28#8 }
    (fun t => (t.p, t.cycles)) = some (0x20#8, 1) := by decide

/-- T10.15. -/
theorem test_sed : after (at0 0x8000 [0xF8] [])
    (fun t => (t.p, t.cycles)) = some (0x28#8, 1) := by decide

/-- T10.16. -/
theorem test_clv : after { at0 0x8000 [0xB8] [] with p := 0x60#8 }
    (fun t => (t.p, t.cycles)) = some (0x20#8, 1) := by decide

/-- T10.17. -/
theorem test_nop : after { at0 0x8000 [0xEA] [] with a := 0x01#8, x := 0x02#8, y := 0x03#8, p := 0xE3#8 }
    (fun t => ((t.a, t.x, t.y, t.sp), (t.p, t.pc, t.cycles))) = some ((0x01#8, 0x02#8, 0x03#8, 0xFD#8), (0xE3#8, 0x8001#16, 1)) := by decide

/-- T10.18. -/
theorem test_brk : after (at0 0x8002 [0x00, 0xFF] [])
    (fun t => ((t.pc, t.sp, t.p, t.ram.read 0x1FD), (t.ram.read 0x1FC, t.ram.read 0x1FB, t.cycles))) = some ((0x9000#16, 0xFA#8, 0x24#8, 0x80#8), (0x04#8, 0x34#8, 6)) := by decide

/-- T10.20 (its stack bytes). -/
theorem test_brk_status : after { at0 0x8000 [0x00] [] with p := 0xE3#8 }
    (fun t => ((t.sp, t.p, t.ram.read 0x1FD, t.ram.read 0x1FC), (t.ram.read 0x1FB, t.cycles))) = some ((0xFA#8, 0xE7#8, 0x80#8, 0x02#8), (0xF7#8, 6)) := by decide

/-- T10.21. -/
theorem test_rti : after { at0 0x8000 [0x40] [(0x1FB, 0x34), (0x1FC, 0x04), (0x1FD, 0x80)] with sp := 0xFA#8, p := 0x24#8 }
    (fun t => (t.pc, t.sp, t.p, t.cycles)) = some (0x8004#16, 0xFD#8, 0x34#8, 5) := by decide

/-- T10.23. -/
theorem test_ill_two : after { at0 0x8000 [0x02] [] with a := 0x01#8, x := 0x02#8, y := 0x03#8, p := 0xE3#8 }
    (fun t => ((t.a, t.x, t.y, t.sp), (t.p, t.pc, t.cycles))) = some ((0x01#8, 0x02#8, 0x03#8, 0xFD#8), (0xE3#8, 0x8001#16, 1)) := by decide

/-- T10.24. -/
theorem test_ill_ff : after { at0 0x8000 [0xFF, 0xA9, 0x01] [] with a := 0x55#8 }
    (fun t => (t.a, t.pc, t.cycles)) = some (0x55#8, 0x8001#16, 1) := by decide

/-- T11.8. -/
theorem test_stub_is_break : after (at0 0x4017 [] [])
    (fun t => (t.sp, t.ram.read 0x1FD, t.ram.read 0x1FC, t.ram.read 0x1FB, t.cycles)) = some (0xFA#8, 0x40#8, 0x19#8, 0x34#8, 6) := by decide

/-! ### Faults, interrupts, reset, the Bus, the host -/

/-- T11.1, T11.4: a load from the disabled region, and one that reaches it by indexing. -/
theorem test_load_disabled :
    step (at0 0x8000 [0xAD, 0x18, 0x40] []) = .fault (.busFault 0x4018#16) ∧
    step { at0 0x8000 [0xBD, 0x17, 0x40] [] with x := 0x01#8 } = .fault (.busFault 0x4018#16) := ⟨rfl, rfl⟩

/-- T11.6, T11.7: the jump into the region is no fault, the next fetch is. -/
theorem test_fetch_disabled : after (at0 0x8000 [0x4C, 0x18, 0x40] []) (fun t => t.pc) = some 0x4018#16 ∧
    Host.Core.run Sys2Proof.core 2 (at0 0x8000 [0x4C, 0x18, 0x40] []) = .fault (.busFault 0x4018#16) := ⟨by decide, rfl⟩

/-- T12.3: the pushed status has Break clear, the live Break stays; T12.2: masked. -/
theorem test_irq :
    afterOp .irq { at0 0x8000 [] [] with p := 0xF3#8 } (fun t _ => (t.pc, t.sp, t.p, t.ram.read 0x1FB, t.cycles)) =
      some (0x9000#16, 0xFA#8, 0xF7#8, 0xE3#8, 7) ∧
    afterOp .irq { at0 0x8000 [] [] with p := 0x24#8 } (fun t _ => (t.pc, t.sp, t.p, t.cycles)) =
      some (0x8000#16, 0xFD#8, 0x24#8, 0) := by decide

/-- T12.8: the stack pointer wraps, PC 0xFFFF is pushed as FF FF. -/
theorem test_nmi :
    afterOp .nmi { at0 0xFFFF [] [] with p := 0x34#8, sp := 0x00#8 }
      (fun t _ => ((t.pc, t.sp, t.p, t.cycles), t.ram.read 0x100, t.ram.read 0x1FF, t.ram.read 0x1FE)) =
      some ((0xA000#16, 0xFD#8, 0x34#8, 8), 0xFF#8, 0xFF#8, 0x24#8) := by decide

/-- T1.1: power with the reset vector 0x8000. -/
theorem test_power :
    afterOp .power { State.built Params.default [] with mapper := some (.direct (cart 0x8000 [])) }
      (fun t _ => ((t.a, t.sp, t.pc), t.p, t.cycles, t.mclk)) = some ((0x00#8, 0xFD#8, 0x8000#16), 0x20#8, 8, 0) := by
  decide

/-- Building, inserting the blank cartridge and `power()` reach `State.reset` (log 2, log 3, log 6). -/
theorem test_reset_is_power_of_blank :
    hostRun [.insert Cartridge.blank, .power] (State.built Params.default []) = .next State.reset := rfl

/-- From reset the first instruction is performed by the 27th master tick, which is the 9th CPU clock (spec
70_reset_and_hazards.md R262, 60_exceptions.md R242); 2 cycles leave 1. -/
theorem test_first_step_after_reset :
    after (State.reset.withFetchWord 16 0x42A9) (fun t => (t.a, t.pc, t.mclk, t.cycles)) =
      some (0x42#8, 0x0002#16, 27, 1) := by decide

/-- T2.1 to T2.6: the mirrors. -/
theorem test_mirrors :
    afterOp (.write 0x0000#16 0x11#8) State.reset (fun t _ =>
        (busRead t 0x0800#16, busRead t 0x1000#16, busRead t 0x1800#16)) =
      some (.next 0x11#8, .next 0x11#8, .next 0x11#8) ∧
    afterOp (.write 0x1FFF#16 0x22#8) State.reset (fun t _ => busRead t 0x07FF#16) = some (.next 0x22#8) := ⟨rfl, rfl⟩

/-- T2.22 to T2.26: words, and the disabled region. -/
theorem test_words :
    busRead16 (at0 0x8000 [] [(0x000, 0x11), (0x7FF, 0x22)]) 0x07FF#16 = .next 0x1122#16 ∧
    busRead16 (at0 0x8000 [] [(0x000, 0x11), (0x7FF, 0x22)]) 0x1FFF#16 = .next 0x0022#16 ∧
    busRead16 (at0 0xBFFF [0xCD] [(0x000, 0x11)]) 0xFFFF#16 = .next 0x11CD#16 ∧
    busRead16 (at0 0x8000 [] []) 0xFFFC#16 = .next 0x8000#16 ∧
    busRead (at0 0x8000 [] []) 0x4018#16 = .fault (.busFault 0x4018#16) := ⟨rfl, rfl, rfl, rfl, rfl⟩

/-- T2.27, T2.28: more banks than one. -/
theorem test_two_banks :
    (Mapper.direct { Cartridge.blank with prg := fill (fill [] 0x123 [0xAB]) 0x4123 [0xEF], prgBanks := 2 }).cpuRead
      0x8123#16 = 0xAB#8 ∧
    (Mapper.direct { Cartridge.blank with prg := fill [] 0x4123 [0xEF], prgBanks := 3 }).cpuRead 0xC123#16 = 0xEF#8 := by
  decide

/-- T2.29: the graphics port. -/
theorem test_graphics :
    afterOp (.graphicsWrite 0x1FFF#16 0x77#8) State.reset (fun t _ =>
      afterOp (.graphicsRead 0x1FFF#16) t fun _ r => r) = some (some (.byte 0x77#8)) ∧
    hostOp (.graphicsRead 0x2000#16) State.reset = .refused .graphicsOutOfRange := ⟨by decide, rfl⟩

/-- T1.7: selector 1. -/
theorem test_insert_unregistered :
    hostOp (.insert { Cartridge.blank with mapperId := 1 }) (State.built Params.default []) =
      .next (State.built Params.default [], .inserted false) ∧
    hostOp .power (State.built Params.default []) = .refused .noMapper := ⟨rfl, rfl⟩

/-- MAPPER_REGISTRY is an argument (spec 20_memory.md R56, R57): a map with 5 registered installs selector 5, the
empty map installs none. -/
theorem test_registry :
    afterOp (.insert { Cartridge.blank with mapperId := 5 })
        (State.built { Params.default with registry := [(0, .direct), (5, .direct)] } []) (fun t r => (t.mapper.isSome, r)) =
      some (true, .inserted true) ∧
    hostOp (.insert Cartridge.blank) (State.built { Params.default with registry := [] } []) =
      .next (State.built { Params.default with registry := [] } [], .inserted false) := ⟨by decide, rfl⟩

/-- Spec 60_exceptions.md R250, row `read16`: a word with a byte in cartridge space is refused without a Mapper; R44,
R48: one whose second byte alone is in the disabled region is a bus fault there. -/
theorem test_read16_precondition :
    hostOp (.read16 0x401F#16 false) (State.built Params.default []) = .refused .noMapper ∧
    hostOp (.read16 0x401F#16 false) State.reset = .fault (.busFault 0x401F#16) ∧
    hostOp (.read16 0x4017#16 false) (State.built Params.default []) = .fault (.busFault 0x4018#16) := ⟨rfl, rfl, rfl⟩

/-- Spec 10_state.md R27, 60_exceptions.md R236: a debug read in the disabled region sets the mark, and the host's
next operation is refused. -/
theorem test_fault_sets_the_mark :
    (∃ t, transition (.read 0x4018#16 false) State.reset = .next (t, .faulted (.busFault 0x4018#16)) ∧ t.faulted = true) ∧
    hostRun [.read 0x4018#16 false, .clock] State.reset = .refused .coreFaulted := ⟨⟨_, rfl, rfl⟩, rfl⟩

/-- Spec 60_exceptions.md R229, 92_eei_decisions.md D15: irq() and then nmi() in one window is refused, with a CPU clock
(the third tick) between them it is not. -/
theorem test_window :
    hostRun [.irq, .clock, .clock, .nmi] State.reset = .refused .nmiAfterIrq ∧
    (∃ t, hostRun [.irq, .clock, .clock, .clock, .nmi] State.reset = .next t ∧ t.cycles = 8) := ⟨rfl, ⟨_, rfl, rfl⟩⟩

/-- T12.11: irq() and then nmi() with no CPU clock between, as the operations have it; a session refuses it (R229),
but for a marked core with the reason of the mark (log 14). -/
theorem test_other_order :
    afterOp .irq { at0 0x8000 [] [] with cycles := 5 } (fun t _ =>
        afterOp .nmi t fun u _ => ((u.pc, u.sp, u.p, u.cycles), u.ram.read 0x1FA, u.ram.read 0x1F9, u.ram.read 0x1F8)) =
      some (some ((0xA000#16, 0xF7#8, 0x24#8, 8), 0x90#8, 0x00#8, 0x24#8)) ∧
    hostRun [.irq, .nmi] { at0 0x8000 [] [] with cycles := 5 } = .refused .nmiAfterIrq ∧
    hostRun [.irq, .read 0x4018#16 false, .nmi] (at0 0x8000 [] []) = .refused .coreFaulted := ⟨rfl, rfl, rfl⟩

/-- The examples of spec 92_eei_decisions.md D28: PC at a self-jump with `cycles` = 0, where a NOP of 2 cycles comes
before the jump, and a tick count at which no instruction ends. -/
theorem test_stop_predicates :
    RunsTo (at0 0x8000 [0xEA, 0x4C, 0x01, 0x80] []) (fun t => t.pc = 0x8001#16 ∧ t.cycles = 0) ∧
    RunsTo (at0 0x8000 [0xEA, 0x4C, 0x01, 0x80] []) (fun t => t.mclk = 4) :=
  ⟨⟨6, _, rfl, rfl, rfl, rfl⟩, ⟨4, _, rfl, rfl, rfl⟩⟩

/-- T10.25: ILLEGAL_CYCLES = 5 for 0x02; T10.19: BRK_PAD = 0. -/
theorem test_parameters :
    after { at0 0x8000 [0x02] [] with params := { Params.default with illegalCosts := [(0x02#8, 4)] } }
      (fun t => t.cycles) = some 4 ∧
    after { at0 0x8002 [0x00, 0xFF] [] with params := { Params.default with brkPad := 0 } }
      (fun t => t.ram.read 0x1FC) = some 0x03#8 := by decide

/-! ### The hypotheses of the statements can be met -/

/-- LoadsCopyTheOperandByte, AddAndSubtract, LogicCombinesBitwise, CompareSetsCarryZeroNegative: operands at the
ends of the accessible regions. -/
theorem test_witness_ready_alu :
    operandReady State.reset (AluOperand.imm 0x00#8).operand = true ∧
    operandReady State.reset (AluOperand.abs 0x1FFF#16).operand = true ∧
    operandReady State.reset (AluOperand.abs 0x4017#16).operand = true ∧
    operandReady State.reset (AluOperand.aby 0x4020#16).operand = true ∧
    operandReady State.reset (AluOperand.izy 0xFF#8).operand = true := by decide

/-- LoadsCopyTheOperandByte (LDX, LDY), BitTestsTheOperand, CompareSetsCarryZeroNegative (CPX, CPY). -/
theorem test_witness_ready_others :
    operandReady State.reset (LdxOperand.zpy 0xFF#8).operand = true ∧
    operandReady State.reset (LdyOperand.abx 0xFFFF#16).operand = true ∧
    operandReady State.reset (BitOperand.abs 0x2000#16).operand = true ∧
    operandReady State.reset (CpxOperand.abs 0x4017#16).operand = true := by decide

/-- AddAndSubtract: the sums of its premises at 0x7F + 0x00 + 1, the boundary of signed overflow. -/
theorem test_witness_adder : ∃ s : State, operandReady s (AluOperand.imm 0x00#8).operand = true ∧
    operandByte s (AluOperand.imm 0x00#8).operand = 0x00#8 ∧
    s.a.toNat + (0x00#8).toNat + (s.flag .c).toNat = 128 ∧ s.a.toInt + (0x00#8).toInt + (s.flag .c).toNat = 128 :=
  ⟨{ State.reset with a := 0x7F#8, p := 0x21#8 }, by decide⟩

/-- StoresWriteTheRegister: accessible and disabled addresses, each at the ends of its ranges. -/
theorem test_witness_store :
    accessible State.reset (resolve State.reset (StaOperand.abs 0x4017#16).operand).addr = true ∧
    accessible State.reset (resolve State.reset (StxOperand.abs 0x4020#16).operand).addr = true ∧
    region (resolve State.reset (StyOperand.abs 0x4018#16).operand).addr = .disabled ∧
    region (resolve State.reset (StaOperand.abs 0x401F#16).operand).addr = .disabled := by decide

/-- IncrementAndDecrementMemory, ShiftsMoveOneBit, RotatesMoveThroughCarry, DisabledOperandsFault. -/
theorem test_witness_modify :
    operandReady State.reset (RmwOperand.abs 0x4020#16).operand = true ∧
    operandReady State.reset (RmwOperand.zpx 0xFF#8).operand = true ∧
    operandDisabled State.reset (RmwOperand.abx 0x4018#16).operand = true ∧
    operandDisabled State.reset (AluOperand.abs 0x401F#16).operand = true ∧
    operandDisabled State.reset (LdxOperand.abs 0x4018#16).operand = true ∧
    operandDisabled State.reset (LdyOperand.abs 0x4018#16).operand = true ∧
    operandDisabled State.reset (BitOperand.abs 0x401F#16).operand = true ∧
    operandDisabled State.reset (CpxOperand.abs 0x401F#16).operand = true := by decide

/-- BranchesFollowTheirFlag: both values of the four flags. -/
theorem test_witness_branch :
    (∀ f ∈ [Flag.c, .z, .n, .v], State.reset.flag f = false) ∧
    (∀ f ∈ [Flag.c, .z, .n, .v], { State.reset with p := 0xE3#8 }.flag f = true) := by decide

/-- JumpLoadsPc: a pointer at the end of a page, and one before it. -/
theorem test_witness_jump :
    accessible State.reset 0x02FF#16 = true ∧ accessible State.reset 0x0200#16 = true ∧
    (0x0200#16).toNat = (if (0x02FF#16).toNat % 256 = 255 then (0x02FF#16).toNat - 255 else (0x02FF#16).toNat + 1) ∧
    (0x02FF#16).toNat = (if (0x02FE#16).toNat % 256 = 255 then (0x02FE#16).toNat - 255 else (0x02FE#16).toNat + 1) := by
  decide

/-- RtsUndoesJsr: the state a call leaves meets its premises, with S at the wrap. -/
theorem test_witness_call : ∃ s t : State, s.sp = 0x00#8 ∧ exec (.jsr 0x9000#16) s = .next t ∧ t.ram = t.ram ∧ t.sp = 0xFE#8 :=
  ⟨{ State.reset with sp := 0x00#8 }, _, rfl, rfl, rfl, rfl⟩

/-- IllegalOpcodesDoNothing. -/
theorem test_witness_illegal : isIllegalOpcode 0x02#8 = true ∧ isIllegalOpcode 0xFF#8 = true := by decide

/-- BreakTakesTheSharedVector: with and without a Mapper. -/
theorem test_witness_break :
    State.reset.mapper = some (.direct Cartridge.blank) ∧ (State.built Params.default []).mapper = none := by decide

/-- MaskableInterrupt, NonMaskableInterrupt, AccessorsOnlyRead, MasterClockDividesByThree: a running core, I clear
and set, with 7 cycles owed, with a tick that does and one that does not reach the CPU. -/
theorem test_witness_running :
    running State.reset = true ∧ State.reset.mapper = some (.direct Cartridge.blank) ∧ State.reset.flag .i = false ∧
    running { State.reset with p := 0x24#8, cycles := 7 } = true ∧
    { State.reset with p := 0x24#8, cycles := 7 }.flag .i = true ∧
    0 < State.reset.cycles ∧ (State.reset.mclk + 1) % 3 ≠ 0 ∧ ({ State.reset with mclk := 2 }.mclk + 1) % 3 = 0 := by
  decide

/-- InterruptFrameLiesAboveTheStackPointer, with S at the wrap. -/
theorem test_witness_frame : ∃ t, takeInterrupt { State.reset with sp := 0x01#8 } irqVector 0x1234#16 0x20#8 = .next t :=
  ⟨_, rfl⟩

/-- RtiResumesWhatWasInterrupted, IrqAfterNmiDoesNothing: each of the three entries happens. -/
theorem test_witness_resume : State.reset.flag .u = true ∧ State.reset.flag .i = false ∧
    (∃ t, hostOp .irq State.reset = .next t) ∧ (∃ t, hostOp .nmi State.reset = .next t) ∧
    ∃ t, exec .brk State.reset = .next t :=
  ⟨rfl, rfl, ⟨_, rfl⟩, ⟨_, rfl⟩, ⟨_, rfl⟩⟩

/-- PowerAndResetRunTheResetSequence. -/
theorem test_witness_power : State.reset.faulted = false ∧ State.reset.mapper = some (.direct Cartridge.blank) ∧
    State.reset.connected = true ∧ State.reset.cycles = 8 := by decide

/-- DisabledRegionFaults: a word read at the last address of the region needs a Mapper, at the one before it none. -/
theorem test_witness_disabled_words : State.reset.faulted = false ∧ State.reset.mapper ≠ none ∧
    (0x401E#16).toNat ≠ 0x401F ∧ (State.built Params.default []).faulted = false := by decide

/-- BusFollowsTheDecodeTable, DisabledRegionFaults, RamIsMirrored: the ends of the five ranges. -/
theorem test_witness_regions :
    [0x0000#16, 0x1FFF#16].all (fun a => region a = .ram) = true ∧
    [0x2000#16, 0x3FFF#16].all (fun a => region a = .graphicsStub) = true ∧
    [0x4000#16, 0x4017#16].all (fun a => region a = .audioStub) = true ∧
    [0x4018#16, 0x401F#16].all (fun a => region a = .disabled) = true ∧
    [0x4020#16, 0xFFFF#16].all (fun a => region a = .cartridge) = true ∧ State.reset.faulted = false := by decide

/-- DisabledRegionFaults: a fetch in the region of the first, the second and the third byte. -/
theorem test_witness_fetch :
    (running { State.reset with pc := 0x4018#16 } = true ∧ region (0x4018#16 + BitVec.ofNat 16 0) = .disabled) ∧
    (busRead State.reset 0x4017#16 = .next 0x00#8 ∧ (entry 0xAD#8).mode.operandBytes = 2 ∧
      region (0x401F#16 + BitVec.ofNat 16 0) = .disabled) ∧
    ∃ s : State, running s = true ∧ busRead s 0x4017#16 = .next 0x00#8 := by
  refine ⟨⟨by decide, by decide⟩, ⟨rfl, by decide, by decide⟩, State.reset, by decide, rfl⟩

/-- WordReadsAreLittleEndian: a word over the end of the address space, and one into the disabled region. -/
theorem test_witness_word :
    (0x0000#16).toNat = ((0xFFFF#16).toNat + 1) % 65536 ∧ busRead State.reset 0xFFFF#16 = .next 0x00#8 ∧
    busRead State.reset 0x0000#16 = .next 0x00#8 ∧ accessible State.reset 0x4017#16 = true ∧
    (0x4018#16).toNat = ((0x4017#16).toNat + 1) % 65536 ∧ busRead State.reset 0x4018#16 = .fault (.busFault 0x4018#16) :=
  ⟨by decide, rfl, rfl, by decide, by decide, rfl⟩

/-- MapperZeroReadsProgramRom: one bank, two banks, and the ends of the mirrored range. -/
theorem test_witness_banks : Cartridge.blank.prgBanks = 1 ∧ 2 ≤ { Cartridge.blank with prgBanks := 2 }.prgBanks ∧
    0x8000 ≤ (0x8000#16).toNat ∧ (0xBFFF#16).toNat ≤ 0xBFFF := by decide

/-- GraphicsPort: RAM and ROM, the last address and the first that is refused. -/
theorem test_witness_graphics : State.reset.faulted = false ∧ State.reset.mapper = some (.direct Cartridge.blank) ∧
    Cartridge.blank.chrBanks = 0 ∧ { Cartridge.blank with chrBanks := 1 }.chrBanks ≠ 0 ∧
    (0x1FFF#16).toNat ≤ 0x1FFF ∧ 0x1FFF < (0x2000#16).toNat := by decide

/-- InsertFillsTheSlotOnce: success, failure, and the refusals, one of them for a registered selector that is not 0. -/
theorem test_witness_insert :
    (State.built Params.default []).mapper = none ∧ (State.built Params.default []).connected = false ∧
    (State.built Params.default []).faulted = false ∧ Cartridge.blank.wf = true ∧ Cartridge.blank.prgBanks ≠ 0 ∧
    registered Params.default Cartridge.blank.mapperId = some .direct ∧
    registered Params.default { Cartridge.blank with mapperId := 255 }.mapperId = none ∧
    { Cartridge.blank with mapperId := 255 }.wf = true ∧
    State.reset.mapper ≠ none ∧ { Cartridge.blank with prg := [(0x4000, 0x01#8)] }.wf = false ∧
    { Cartridge.blank with prgBanks := 0 }.prgBanks = 0 ∧
    registered { Params.default with registry := [(5, .direct)] } 5 = some .direct := by decide

/-- InstalledCartridgeIsImmutable, HostOperationsKeepTheInvariant: host operations go on, and one faults. -/
theorem test_witness_host :
    (∃ t r, hostOp (.graphicsWrite 0x0010#16 0x5A#8) State.reset = .next (t, r)) ∧
    (∃ t r, hostOp .clock State.reset = .next (t, r)) ∧
    (∃ t r, transition (.write 0x401F#16 0x00#8) State.reset = .next (t, r)) ∧
    Memory.wf [] = true ∧ Memory.below [] 2048 = true ∧
    ∃ t, hostRun [.insert Cartridge.blank, .power] (State.built Params.default []) = .next t :=
  ⟨⟨_, _, rfl⟩, ⟨_, _, rfl⟩, ⟨_, _, rfl⟩, rfl, rfl, ⟨_, rfl⟩⟩

/-- RefusedOperations: a marked core, one before `power()` without a Mapper, and the ends of the ranges. -/
theorem test_witness_refused : { State.reset with faulted := true }.faulted = true ∧
    (State.built Params.default []).faulted = false ∧
    (State.built Params.default []).connected = false ∧ (State.built Params.default []).mapper = none ∧
    0x4020 ≤ (0x4020#16).toNat ∧ 0x401F ≤ (0x401F#16).toNat := by decide

/-- BusFaultIsFinal: an operation that faults, after a session that reaches its state. -/
theorem test_witness_final :
    hostOp (.read 0x4018#16 true) State.reset = .fault (.busFault 0x4018#16) ∧
    hostRun [.insert Cartridge.blank, .power] (State.built Params.default []) = .next State.reset := ⟨rfl, rfl⟩

/-- NmiComesFirstInAWindow: a session that goes on through `irq()`, a CPU clock and `nmi()`, from a running core. -/
theorem test_witness_window : running State.reset = true ∧
    ∃ t, hostRun ([.clock] ++ .irq :: ([.clock, .clock] ++ .nmi :: [.reset])) State.reset = .next t := ⟨rfl, ⟨_, rfl⟩⟩

/-- AccessorsOnlyRead: the instruction at PC when no cycle is owed. -/
theorem test_witness_accessor : ∃ t, running (at0 0x8000 [0xA9, 0x42] []) = true ∧
    (at0 0x8000 [0xA9, 0x42] []).cycles = 0 ∧ fetch (at0 0x8000 [0xA9, 0x42] []) = .next (.lda (.imm 0x42#8), t) :=
  ⟨_, rfl, rfl, rfl⟩

/-- StepRunsTheDecodedInstruction: the bytes at PC decode. -/
theorem test_witness_step : running (at0 0x8000 [0xA9, 0x42] []) = true ∧
    decode [0xA9#8, 0x42#8] = .ok (.lda (.imm 0x42#8), []) ∧
    busRead (at0 0x8000 [0xA9, 0x42] []) (0x8000#16 + BitVec.ofNat 16 0) = .next 0xA9#8 ∧
    busRead (at0 0x8000 [0xA9, 0x42] []) (0x8000#16 + BitVec.ofNat 16 1) = .next 0x42#8 := by
  refine ⟨by decide, rfl, rfl, rfl⟩

/-- InstructionOccupiesItsCost: cycles owed, and a step of the CPU from none owed. -/
theorem test_witness_clock : 0 < State.reset.cycles ∧ (at0 0x8000 [0xA9, 0x42] []).cycles = 0 ∧
    ∃ t, cpuStep (at0 0x8000 [0xA9, 0x42] []) = .next t ∧ t.cycles = 2 :=
  ⟨by decide, rfl, _, rfl, rfl⟩

/-- CyclesStayAtMostEight: the default parameters, and the boundary value 9. -/
theorem test_witness_costs : illegalCostsAtMostNine State.reset.params ∧ State.reset.cycles ≤ 8 ∧
    illegalCycles { Params.default with illegalCosts := [(0x02#8, 8)] } 0x02#8 = 9 :=
  ⟨fun _ _ => (by decide : 2 ≤ 9), by decide, by decide⟩

/-- OnlyListedFlagsChange, OnlyListedRegistersChange, OnlyStoredBytesChange: an instruction that goes on, a flag
and registers it does not list, and an address that names none of the bytes it stores to. -/
theorem test_witness_frames : State.reset.flag .u = true ∧ (∃ t, exec (.sta (.abs 0x0200#16)) State.reset = .next t) ∧
    (Flag.c ∉ flagsWritten .sta) ∧ writesA (.sta (.abs 0x0200#16)) = false ∧
    bytesStored State.reset (.sta (.abs 0x0200#16)) = [0x0200#16] ∧ ¬ sameByte 0x0201#16 0x0200#16 :=
  ⟨rfl, ⟨_, rfl⟩, by decide, rfl, rfl, by unfold sameByte; decide⟩

/-- StepKeepsTheInvariant: the state after reset meets the invariant and steps. -/
theorem test_witness_invariant : Inv State.reset ∧ ∃ t, step State.reset = .next t :=
  ⟨⟨rfl, rfl, fun _ h => by cases h; rfl, fun _ => rfl, fun _ => rfl⟩, ⟨_, rfl⟩⟩

/-- DisabledOperandsFault: an indirect jump whose second read alone lies in the region; CartridgeOperandsNeedAMapper:
the ends of cartridge space. -/
theorem test_witness_stops : accessible State.reset 0x4017#16 = true ∧
    (0x4018#16).toNat = (if (0x4017#16).toNat % 256 = 255 then (0x4017#16).toNat - 255 else (0x4017#16).toNat + 1) ∧
    region 0x4018#16 = .disabled ∧ (State.built Params.default []).mapper = none ∧
    region (resolve (State.built Params.default []) (AluOperand.abs 0x4020#16).operand).addr = .cartridge ∧
    region (resolve (State.built Params.default []) (RmwOperand.abs 0xFFFF#16).operand).addr = .cartridge ∧
    (∀ b, AluOperand.abs 0x4020#16 ≠ .imm b) :=
  ⟨by decide, by decide, by decide, rfl, by decide, by decide, nofun⟩

/-- DecodeOfEncode, EncodeOfDecode: well-formed instructions with bytes after them. -/
theorem test_witness_encoding : (Instr.ill 0xFF#8).wf = true ∧
    decode [0x6C#8, 0xFF#8, 0x02#8, 0xEA#8] = .ok (.jmp (.ind 0x02FF#16), [0xEA#8]) := ⟨by decide, rfl⟩

end Sys2Proof.Machine.Tests
end

/-! # Proofs: the Bus and RAM (spec 20_memory.md) -/

section
/-! ## The Bus, region by region

The model's laws name RAM, the disabled region and reads of cartridge space; here are the stub regions,
writes of cartridge space, and accesses without a Mapper. -/

namespace Sys2Proof.Machine

theorem region_eq_stub_iff (a : Word) :
    (region a = .graphicsStub ∨ region a = .audioStub) ↔ 0x2000 ≤ a.toNat ∧ a.toNat ≤ 0x4017 := by
  unfold region
  repeat' split
  all_goals simp; try omega

theorem busRead_stub {s : State} {a : Word} (h : region a = .graphicsStub ∨ region a = .audioStub) :
    busRead s a = .next 0x00#8 := by
  rcases h with h | h <;> simp only [busRead, h]

theorem busWrite_stub {s : State} {a : Word} (v : Byte) (h : region a = .graphicsStub ∨ region a = .audioStub) :
    busWrite s a v = .next s := by
  rcases h with h | h <;> simp only [busWrite, h]

theorem busRead_noMapper {s : State} {a : Word} (h : region a = .cartridge) (hm : s.mapper = none) :
    busRead s a = .refused .noMapper := by simp only [busRead, h, hm]

theorem busWrite_noMapper {s : State} {a : Word} (v : Byte) (h : region a = .cartridge) (hm : s.mapper = none) :
    busWrite s a v = .refused .noMapper := by simp only [busWrite, h, hm]

theorem busWrite_cartridge {s : State} {a : Word} {m : Mapper} (v : Byte) (h : region a = .cartridge)
    (hm : s.mapper = some m) : busWrite s a v = .next s := by
  simp only [busWrite, h, hm, Mapper.cpuWrite_eq]
  rw [← hm, State.setMapper_self]

/-- RAM is not read outside its own region. -/
theorem busRead_setRam_of_ne_ram {s : State} (m : Memory) {b : Word} (h : region b ≠ .ram) :
    busRead (s.setRam m) b = busRead s b := by
  cases hb : region b with
  | ram => exact absurd hb h
  | graphicsStub | audioStub | disabled | cartridge => simp only [busRead, hb, State.setRam]

/-! ### Words -/

theorem busRead16_fault_low {s : State} {a : Word} {f : Fault} (h : busRead s a = .fault f) :
    busRead16 s a = .fault f := by rw [busRead16, h, andThen_fault]

theorem busRead16_fault_high {s : State} {a : Word} {lo : Byte} {f : Fault} (h : busRead s a = .next lo)
    (h' : busRead s (a + 1) = .fault f) : busRead16 s a = .fault f := by
  rw [busRead16, h, andThen_next, h', andThen_fault]

/-! ### The host's debug accesses -/

theorem whenNotFaulted_eq {α : Type} {s : State} (h : s.faulted = false) (x : Result α) :
    whenNotFaulted s x = x := by
  simp [whenNotFaulted, h]

theorem hostOp_read_eq {s : State} (hf : s.faulted = false) (a : Word) (readOnly : Bool) :
    hostOp (.read a readOnly) s = andThen (busRead s a) fun v => .next (s, .byte v) :=
  whenNotFaulted_eq hf _

theorem hostOp_write_eq {s : State} (hf : s.faulted = false) (a : Word) (v : Byte) :
    hostOp (.write a v) s = andThen (busWrite s a v) fun t => .next (t, .none) :=
  whenNotFaulted_eq hf _

/-- A debug word read whose two addresses can be read without a Mapper, or with the one there, is a word
read of the Bus. -/
theorem hostOp_read16_eq {s : State} {a : Word} (hf : s.faulted = false)
    (h0 : region a = .cartridge → s.mapper ≠ none) (h1 : region (a + 1) = .cartridge → s.mapper ≠ none)
    (readOnly : Bool) :
    hostOp (.read16 a readOnly) s = andThen (busRead16 s a) fun v => .next (s, .word v) := by
  rw [hostOp, whenNotFaulted_eq hf, whenReadable_eq h0, whenReadable_eq h1]

/-- Settles O29: each range of addresses is a region, and each region has its rule. -/
theorem busFollowsTheDecodeTable : Obligations.BusFollowsTheDecodeTable := by
  refine ⟨fun s a v => ⟨fun h => ?ram, fun h h' => ?stubs, fun h h' => ?disabled, fun h => ?cartridge⟩,
    fun s a v readOnly hf => ⟨hostOp_read_eq hf a readOnly, hostOp_write_eq hf a v⟩⟩
  case ram =>
    have hr := (region_eq_ram_iff a).2 h
    rw [← ramIndex_eq_mod]
    exact ⟨busRead_ram hr, busWrite_ram v hr⟩
  case stubs =>
    have hr := (region_eq_stub_iff a).2 ⟨h, h'⟩
    exact ⟨busRead_stub hr, busWrite_stub v hr⟩
  case disabled =>
    have hr := (region_eq_disabled_iff a).2 ⟨h, h'⟩
    exact ⟨busRead_disabled hr, busWrite_disabled v hr⟩
  case cartridge =>
    have hr := (region_eq_cartridge_iff a).2 h
    exact ⟨fun hm => ⟨busRead_noMapper hr hm, busWrite_noMapper v hr hm⟩,
      fun m hm => ⟨busRead_cartridge hr hm, busWrite_cartridge v hr hm, m.cpuWrite_eq a v⟩⟩

end Sys2Proof.Machine
end

section
/-! ## The disabled region (spec R48) -/

namespace Sys2Proof.Machine

theorem entry_operandBytes_le (op : Byte) : (entry op).mode.operandBytes ≤ 2 := by
  cases (entry op).mode <;> decide

theorem fetchByte_eq {s : State} {b : Byte} (h : busRead s s.pc = .next b) :
    fetchByte s = .next (b, s.setPc (s.pc + 1)) := by rw [fetchByte, h, andThen_next]

theorem fetchByte_fault {s : State} {f : Fault} (h : busRead s s.pc = .fault f) : fetchByte s = .fault f := by
  rw [fetchByte, h, andThen_fault]

/-- A fetch whose opcode byte cannot be read faults. -/
theorem fetch_fault_opcode {s : State} {f : Fault} (h : busRead s s.pc = .fault f) : fetch s = .fault f := by
  rw [fetch, fetchByte_fault h, andThen_fault]

/-- A fetch whose first operand byte cannot be read faults. -/
theorem fetch_fault_first {s : State} {op : Byte} {f : Fault} (hop : busRead s s.pc = .next op)
    (hn : 1 ≤ (entry op).mode.operandBytes) (h : busRead s (s.pc + 1) = .fault f) : fetch s = .fault f := by
  have h1 : fetchByte (s.setPc (s.pc + 1)) = .fault f := fetchByte_fault h
  rw [fetch, fetchByte_eq hop, andThen_next]
  dsimp only
  split
  · omega
  · rw [h1, andThen_fault]
  · rw [h1, andThen_fault]

/-- A fetch whose second operand byte cannot be read faults. -/
theorem fetch_fault_second {s : State} {op b1 : Byte} {f : Fault} (hop : busRead s s.pc = .next op)
    (hn : (entry op).mode.operandBytes = 2) (hb1 : busRead s (s.pc + 1) = .next b1)
    (h : busRead s (s.pc + 1 + 1) = .fault f) : fetch s = .fault f := by
  have h1 : fetchByte (s.setPc (s.pc + 1)) = .next (b1, s.setPc (s.pc + 1 + 1)) := fetchByte_eq hb1
  have h2 : fetchByte (s.setPc (s.pc + 1 + 1)) = .fault f := fetchByte_fault h
  simp only [fetch, fetchByte_eq hop, andThen_next, hn, h1, h2, andThen_fault]

/-- A fetch whose byte `k` lies in the disabled region faults there. -/
theorem fetch_disabled {s : State} {op : Byte} {k : Nat} (hk : k ≤ (entry op).mode.operandBytes)
    (hop : 0 < k → busRead s s.pc = .next op) (hb1 : 1 < k → accessible s (s.pc + 1) = true)
    (hd : region (s.pc + BitVec.ofNat 16 k) = .disabled) :
    fetch s = .fault (.busFault (s.pc + BitVec.ofNat 16 k)) := by
  have hfault := busRead_disabled (s := s) hd
  have hle := entry_operandBytes_le op
  match k with
  | 0 => exact fetch_fault_opcode (by simpa using hfault)
  | 1 => exact fetch_fault_first (hop (by omega)) hk hfault
  | 2 =>
    have hpc : s.pc + BitVec.ofNat 16 2 = s.pc + 1 + 1 := by rw [BitVec.add_assoc]; rfl
    rw [hpc] at hfault ⊢
    exact fetch_fault_second (hop (by omega)) (by omega) (busRead_of_accessible (hb1 (by omega))) hfault
  | k + 3 => omega

/-- A step of a running core whose fetch faults. -/
theorem step_fetch_fault {s : State} {f : Fault} (hr : running s = true)
    (h : ∀ n, fetch ((s.setCycles 0).setMclk n) = .fault f) : step s = .fault f := by
  obtain ⟨hf, hc, hm⟩ := running_iff.1 hr
  rw [step_eq hf hc hm, cpuStep, h, andThen_fault, andThen_fault]

/-- The host's debug word read faults where its first byte lies in the disabled region, unless its second byte
makes it a refused one. -/
theorem hostOp_read16_disabled {s : State} {a : Word} (hf : s.faulted = false) (h : region a = .disabled)
    (hlast : a.toNat ≠ 0x401F ∨ s.mapper ≠ none) (readOnly : Bool) :
    hostOp (.read16 a readOnly) s = .fault (.busFault a) := by
  have hsecond : region (a + 1) = .cartridge → s.mapper ≠ none := by
    intro hc
    refine hlast.resolve_left fun hne => ?_
    have hlow := (region_eq_disabled_iff a).1 h
    have hhigh := (region_eq_cartridge_iff (a + 1)).1 hc
    rw [BitVec.toNat_add, show (1 : Word).toNat = 1 from rfl] at hhigh
    omega
  rw [hostOp_read16_eq hf (by simp [h]) hsecond, busRead16_fault_low (busRead_disabled h), andThen_fault]

/-- Settles O30: the rule of the disabled region, at each operation and each byte of a fetch. -/
theorem disabledRegionFaults : Obligations.DisabledRegionFaults := by
  refine ⟨fun s a v readOnly h h' => ?access, fun s readOnly hf => ?word,
    fun s k op hr hk hop hb1 hd => ?fetches, region_stack, ?vectors⟩
  case access =>
    have hr := (region_eq_disabled_iff a).2 ⟨h, h'⟩
    refine ⟨busRead_disabled hr, busWrite_disabled v hr, fun hf => ⟨?_, ?_, ?_⟩⟩
    · rw [hostOp_read_eq hf, busRead_disabled hr, andThen_fault]
    · rw [hostOp_write_eq hf, busWrite_disabled v hr, andThen_fault]
    · exact fun hlast => hostOp_read16_disabled hf hr hlast readOnly
  case word =>
    have hlow : busRead s 0x4017#16 = .next 0x00#8 := busRead_stub (by decide)
    have hhigh : busRead s (0x4017#16 + 1) = .fault (.busFault 0x4018#16) := busRead_disabled (by decide)
    rw [hostOp_read16_eq hf (absurd · (by decide)) (absurd · (by decide)),
      busRead16_fault_high hlow hhigh, andThen_fault]
  case fetches => exact step_fetch_fault hr fun _ => fetch_disabled hk hop hb1 hd
  case vectors => decide

end Sys2Proof.Machine
end

section
/-! ## The mirrors of RAM (spec R45) -/

namespace Sys2Proof.Machine

/-- An address of RAM names the same byte as those of the RAM region with the same low 11 bits. -/
theorem sameByte_iff_of_ram {a : Word} (ha : region a = .ram) (b : Word) :
    sameByte a b ↔ b.toNat ≤ 0x1FFF ∧ b.toNat % 2048 = a.toNat % 2048 := by
  rw [← region_eq_ram_iff, ← ramIndex_eq_mod, ← ramIndex_eq_mod, sameByte]
  constructor
  · rintro (rfl | ⟨-, hb, hi⟩)
    · exact ⟨ha, rfl⟩
    · exact ⟨hb, hi.symm⟩
  · exact fun ⟨hb, hi⟩ => .inr ⟨ha, hb, hi.symm⟩

/-- Changing only bits 11 and 12 of an address of RAM gives another name of the same byte. -/
theorem sameByte_xor_mirror {a m : Word} (ha : region a = .ram) (hm : m.toNat < 2 ^ 13)
    (hlow : m.toNat % 2 ^ 11 = 0) : sameByte a (a ^^^ m) := by
  have hlt : a.toNat < 2 ^ 13 := by have := (region_eq_ram_iff a).1 ha; omega
  have hbound : a.toNat ^^^ m.toNat < 2 ^ 13 := Nat.xor_lt_two_pow hlt hm
  have hindex : (a.toNat ^^^ m.toNat) % 2 ^ 11 = a.toNat % 2 ^ 11 := by
    rw [Nat.xor_mod_two_pow, hlow, Nat.xor_zero]
  rw [sameByte_iff_of_ram ha, BitVec.toNat_xor]
  exact ⟨by omega, hindex⟩

/-- After a store in RAM every name of the byte reads as the byte stored. -/
theorem busRead_store_of_sameByte {s : State} {a b : Word} (v : Byte) (ha : region a = .ram) (h : sameByte a b) :
    busRead (s.setRam (s.ram.write (ramIndex a) v)) b = .next v := by
  obtain ⟨hb, hi⟩ : region b = .ram ∧ ramIndex b = ramIndex a := by
    rw [region_eq_ram_iff, ramIndex_eq_mod, ramIndex_eq_mod]
    exact (sameByte_iff_of_ram ha b).1 h
  rw [busRead_ram hb, hi]
  exact congrArg _ (Memory.read_write_same ..)

/-- After a store in RAM an address that names another byte reads as before. -/
theorem busRead_store_of_not_sameByte {s : State} {a b : Word} (v : Byte) (ha : region a = .ram)
    (h : ¬ sameByte a b) : busRead (s.setRam (s.ram.write (ramIndex a) v)) b = busRead s b := by
  by_cases hb : region b = .ram
  · have hi : ramIndex b ≠ ramIndex a := fun hi => h (.inr ⟨ha, hb, hi.symm⟩)
    rw [busRead_ram hb, busRead_ram hb]
    exact congrArg _ (Memory.read_write_other _ _ _ _ hi)
  · exact busRead_setRam_of_ne_ram _ hb

/-- Settles O31: the four mirrors name the byte written, and no other address does. -/
theorem ramIsMirrored : Obligations.RamIsMirrored := by
  intro s a v h
  have ha := (region_eq_ram_iff a).2 h
  refine ⟨_, busWrite_ram v ha, fun b hb => busRead_store_of_sameByte v ha ?_,
    fun b hb => busRead_store_of_not_sameByte v ha (mt (sameByte_iff_of_ram ha b).1 hb)⟩
  simp only [List.mem_cons, List.not_mem_nil, or_false] at hb
  rcases hb with rfl | rfl | rfl | rfl
  · exact .inl rfl
  all_goals exact sameByte_xor_mirror ha (by decide) (by decide)

end Sys2Proof.Machine
end

section
/-! ## Decoding as a lookup of the opcode byte (spec R81, R82) -/

namespace Sys2Proof

/-! ### The instruction that three bytes begin -/

/-- The operand bytes have no part in the opcode of the instruction built. -/
theorem build_opcode (e : Entry) (op b1 b2 : Byte) : (build e op b1 b2).opcode = (build e op 0 0).opcode := by
  rcases e with ⟨m, md, c, x⟩
  cases m <;> cases md <;> rfl

/-- The encoder's opcode of what the table holds at a byte is that byte, with operand bytes zero. -/
theorem opcode_decodeBytes_zero : ∀ op : Byte, (decodeBytes op 0 0).opcode = op := by decide

theorem opcode_decodeBytes (op b1 b2 : Byte) : (decodeBytes op b1 b2).opcode = op :=
  (build_opcode (entry op) op b1 b2).trans (opcode_decodeBytes_zero op)

/-- Three bytes hold a whole instruction, of the length that the opcode byte has in the table. -/
theorem decode_three_bytes (op b1 b2 : Byte) (rest : List Byte) :
    ∃ c1 c2, decode (op :: b1 :: b2 :: rest) =
      .ok (decodeBytes op c1 c2, (op :: b1 :: b2 :: rest).drop (instrLength op)) := by
  have hle := Machine.entry_operandBytes_le op
  obtain h | h | h : (entry op).mode.operandBytes = 0 ∨ (entry op).mode.operandBytes = 1 ∨
      (entry op).mode.operandBytes = 2 := by omega
  · exact ⟨0, 0, by simp [decode, instrLength, h]⟩
  · exact ⟨b1, 0, by simp [decode, instrLength, h]⟩
  · exact ⟨b1, b2, by simp [decode, instrLength, h]⟩

/-! ### Counting over the opcode matrix -/

/-- The rows of the matrix, one after another, hold the entry of each byte at its own place. -/
theorem getElem?_flatten_opcodeMatrix : ∀ op : Byte, opcodeMatrix.flatten[op.toNat]? = some (entry op) := by decide

theorem length_flatten_opcodeMatrix : opcodeMatrix.flatten.length = 256 := by
  rw [List.length_flatten]
  decide

/-- In the order of their bytes, the entries are the rows of the matrix one after another. -/
theorem map_entry_range : (List.range 256).map (fun n => entry (BitVec.ofNat 8 n)) = opcodeMatrix.flatten := by
  refine List.ext_getElem (by rw [List.length_map, List.length_range, length_flatten_opcodeMatrix]) fun n hn hn' => ?_
  have hlt : n < 256 := by simpa using hn
  have hplace := getElem?_flatten_opcodeMatrix (BitVec.ofNat 8 n)
  rw [BitVec.toNat_ofNat, Nat.mod_eq_of_lt hlt, List.getElem?_eq_getElem hn'] at hplace
  simpa using (Option.some.inj hplace).symm

/-- Counting opcode bytes by their entries is counting in the rows of the matrix. -/
theorem countP_entry (p : Entry → Bool) :
    (List.range 256).countP (fun n => p (entry (BitVec.ofNat 8 n))) =
      (opcodeMatrix.map (List.countP p)).sum := by
  rw [← List.countP_flatten, ← map_entry_range, List.countP_map]
  rfl

/-- Settles O56: the lookup is total, and the modes and the legal opcodes are counted in the matrix. -/
theorem decodingIsATotalLookup : Obligations.DecodingIsATotalLookup := by
  refine ⟨fun op b1 b2 rest => ?_, fun q hq => ⟨?_, ?_⟩, ?_⟩
  · obtain ⟨c1, c2, h⟩ := decode_three_bytes op b1 b2 rest
    obtain ⟨hmnemonic, hmode⟩ := build_mnemonic op c1 c2 (entry_compatible op)
    exact ⟨_, h, opcode_decodeBytes op c1 c2, hmnemonic, hmode⟩
  · revert q
    decide
  · rw [countP_entry fun e => decide (e.mode = q.1 ∧ e.mnemonic ≠ .ill)]
    revert q
    decide
  · rw [countP_entry fun e => decide (e.mnemonic ≠ .ill)]
    decide

end Sys2Proof
end

section
/-! ## Loads, stores and transfers (spec 41_load_store_transfer.md) -/

namespace Sys2Proof.Machine

/-! ### What each shape of instruction answers -/

/-- An instruction that reads a ready operand answers the effect of the operand's byte, at its cost, when
the effect itself leaves the counter and the parameters alone. -/
theorem readOperand_eq {s : State} {i : Instr} {o : Operand} {f : State → Byte → State}
    (h : operandReady s o = true) (hc : (f s (operandByte s o)).cycles = s.cycles)
    (hp : (f s (operandByte s o)).params = s.params) :
    readOperand s i o f = .next { f s (operandByte s o) with cycles := cyclesAfter s i o } := by
  rw [readOperand_of_ready h, charge_crossing i o hc hp]

theorem storeOperand_of_accessible {s : State} {o : Operand} (i : Instr) (v : Byte)
    (h : accessible s (resolve s o).addr = true) :
    storeOperand s i o v = .next { s with
      ram := ramAfterStore s (resolve s o).addr v, cycles := cyclesAfter s i o } := by
  rw [storeOperand, busWrite_of_accessible v h, andThen_next]
  exact congrArg _ (charge_crossing i o rfl rfl)

theorem storeOperand_of_disabled {s : State} {o : Operand} (i : Instr) (v : Byte)
    (h : region (resolve s o).addr = .disabled) :
    storeOperand s i o v = .fault (.busFault (resolve s o).addr) := by
  rw [storeOperand, busWrite_disabled v h, andThen_fault]

theorem storesByte_of_storeOperand {s : State} {i : Instr} {o : Operand} {v : Byte}
    (h : exec i s = storeOperand s i o v) : storesByte i o v s :=
  ⟨fun ha => h.trans (storeOperand_of_accessible i v ha), fun hd => h.trans (storeOperand_of_disabled i v hd)⟩

/-- An instruction without operand answers its effect, at the base cost of its form, when the effect itself
leaves the counter and the parameters alone. -/
theorem inherent_eq {s : State} {i : Instr} {f : State → State} {bytes : List Byte} {n : Nat} {eligible : Bool}
    (hform : hasForm i bytes n eligible) (hc : (f s).cycles = s.cycles) (hp : (f s).params = s.params) :
    inherent s i f = .next { f s with cycles := s.cycles + n } := by
  obtain ⟨-, hcost, -⟩ := hform
  rw [inherent, State.charge, hc, hp, hcost]
  rfl

/-! ### The statements -/

/-- Settles O1: each form by its table entry; each load is a read whose effect is `SetZN` of the byte. -/
theorem loadsCopyTheOperandByte : Obligations.LoadsCopyTheOperandByte := by
  refine ⟨?ldaForms, ?ldxForms, ?ldyForms, fun s o h => ?lda, fun s o h => ?ldx, fun s o h => ?ldy⟩
  case ldaForms =>
    intro b w
    refine ⟨?_, ?_, ?_, ?_, ?_, ?_, ?_, ?_⟩ <;> exact hasForm_of rfl rfl rfl rfl
  case ldxForms | ldyForms =>
    intro b w
    refine ⟨?_, ?_, ?_, ?_, ?_⟩ <;> exact hasForm_of rfl rfl rfl rfl
  case lda => exact ⟨_, (exec_lda s o).trans (readOperand_eq h rfl rfl), flagsBecome_withZN s.p _⟩
  case ldx => exact ⟨_, (exec_ldx s o).trans (readOperand_eq h rfl rfl), flagsBecome_withZN s.p _⟩
  case ldy => exact ⟨_, (exec_ldy s o).trans (readOperand_eq h rfl rfl), flagsBecome_withZN s.p _⟩

/-- Settles O2: each form by its table entry; each store is a write of the Bus at the resolved address. -/
theorem storesWriteTheRegister : Obligations.StoresWriteTheRegister := by
  refine ⟨?staForms, ?stxForms, ?styForms, fun s o => storesByte_of_storeOperand (exec_sta s o),
    fun s o => storesByte_of_storeOperand (exec_stx s o), fun s o => storesByte_of_storeOperand (exec_sty s o)⟩
  case staForms =>
    intro b w
    refine ⟨?_, ?_, ?_, ?_, ?_, ?_, ?_⟩ <;> exact hasForm_of rfl rfl rfl rfl
  case stxForms | styForms =>
    intro b w
    refine ⟨?_, ?_, ?_⟩ <;> exact hasForm_of rfl rfl rfl rfl

/-- Settles O3: the forms give the cost; five transfers have the effect `SetZN` of the byte moved, TXS none on P. -/
theorem transfersCopyTheRegister : Obligations.TransfersCopyTheRegister := by
  have htax : hasForm .tax [0xAA#8] 2 false := hasForm_of rfl rfl rfl rfl
  have htay : hasForm .tay [0xA8#8] 2 false := hasForm_of rfl rfl rfl rfl
  have htxa : hasForm .txa [0x8A#8] 2 false := hasForm_of rfl rfl rfl rfl
  have htya : hasForm .tya [0x98#8] 2 false := hasForm_of rfl rfl rfl rfl
  have htsx : hasForm .tsx [0xBA#8] 2 false := hasForm_of rfl rfl rfl rfl
  have htxs : hasForm .txs [0x9A#8] 2 false := hasForm_of rfl rfl rfl rfl
  refine ⟨⟨htax, htay, htxa, htya, htsx, htxs⟩, fun s => ⟨?tax, ?tay, ?txa, ?tya, ?tsx, ?txs⟩⟩
  case tax => exact ⟨_, (exec_tax s).trans (inherent_eq htax rfl rfl), flagsBecome_withZN s.p s.a⟩
  case tay => exact ⟨_, (exec_tay s).trans (inherent_eq htay rfl rfl), flagsBecome_withZN s.p s.a⟩
  case txa => exact ⟨_, (exec_txa s).trans (inherent_eq htxa rfl rfl), flagsBecome_withZN s.p s.x⟩
  case tya => exact ⟨_, (exec_tya s).trans (inherent_eq htya rfl rfl), flagsBecome_withZN s.p s.y⟩
  case tsx => exact ⟨_, (exec_tsx s).trans (inherent_eq htsx rfl rfl), flagsBecome_withZN s.p s.sp⟩
  case txs => exact (exec_txs s).trans (inherent_eq htxs rfl rfl)

end Sys2Proof.Machine
end

section
/-! ## Arithmetic and logic (spec 42_arithmetic_logic.md) -/

namespace Sys2Proof.Machine

/-! ### Bytes as numbers -/

theorem getLsbD_seven_eq_decide (v : Byte) : v.getLsbD 7 = decide (128 ≤ v.toNat) :=
  v.msb_eq_decide

/-- Bit 7 of a byte, as the adder's overflow formula tests it. -/
theorem and_signBit_ne_zero : ∀ v : Byte, (v &&& 0x80#8 != 0#8) = v.getLsbD 7 := by decide

/-- A byte as a signed number. -/
theorem toInt_eq_toNat_sub (v : Byte) : v.toInt = v.toNat - if 128 ≤ v.toNat then 256 else 0 := by
  rw [BitVec.toInt_eq_toNat_cond]
  split <;> split <;> omega

/-- The complement that SBC adds, as a number. -/
theorem toNat_xor_ones (m : Byte) : (m ^^^ 0xFF#8).toNat = 255 - m.toNat := by
  rw [show m ^^^ 0xFF#8 = ~~~m from BitVec.xor_allOnes, BitVec.toNat_not]

theorem toNat_add_one (v : Byte) : (v + 1).toNat = (v.toNat + 1) % 256 := BitVec.toNat_add ..

theorem toNat_sub_one (v : Byte) : (v - 1).toNat = (v.toNat + 255) % 256 := by
  rw [BitVec.toNat_sub, Nat.add_comm]
  rfl

theorem add_one_eq_ofNat (v : Byte) : v + 1 = BitVec.ofNat 8 ((v.toNat + 1) % 256) := by
  rw [← toNat_add_one, BitVec.ofNat_toNat, BitVec.setWidth_eq]

theorem sub_one_eq_ofNat (v : Byte) : v - 1 = BitVec.ofNat 8 ((v.toNat + 255) % 256) := by
  rw [← toNat_sub_one, BitVec.ofNat_toNat, BitVec.setWidth_eq]

/-! ### The adder -/

theorem addResult_eq_ofNat_mod (a m : Byte) (carry : Bool) :
    addResult a m carry = BitVec.ofNat 8 (addSum a m carry % 256) := by
  apply BitVec.eq_of_toNat_eq
  simp [addResult]

theorem toNat_addResult (a m : Byte) (carry : Bool) :
    (addResult a m carry).toNat = addSum a m carry % 256 := BitVec.toNat_ofNat ..

/-- The overflow formula in terms of the bits 7: those of the operands agree, and that of the result differs. -/
theorem addOverflow_iff_bits (a m : Byte) (carry : Bool) :
    addOverflow a m carry = true ↔
      a.getLsbD 7 = m.getLsbD 7 ∧ (addResult a m carry).getLsbD 7 ≠ a.getLsbD 7 := by
  rw [addOverflow, and_signBit_ne_zero]
  generalize addResult a m carry = r
  simp only [BitVec.getLsbD_and, BitVec.getLsbD_not, BitVec.getLsbD_xor]
  generalize a.getLsbD 7 = ba, m.getLsbD 7 = bm, r.getLsbD 7 = br
  revert ba bm br
  decide

/-- The overflow formula is signed overflow (spec R150). -/
theorem addOverflow_iff_signed (a m : Byte) (carry : Bool) :
    addOverflow a m carry = true ↔
      a.toInt + m.toInt + carry.toNat < -128 ∨ a.toInt + m.toInt + carry.toNat > 127 := by
  have ha := a.isLt
  have hm := m.isLt
  have hc := carry.toNat_le
  rw [addOverflow_iff_bits, getLsbD_seven_eq_decide, getLsbD_seven_eq_decide, getLsbD_seven_eq_decide,
    toNat_addResult, addSum, toInt_eq_toNat_sub, toInt_eq_toNat_sub]
  simp only [ne_eq, decide_eq_decide]
  split <;> split <;> omega

theorem addOverflow_eq_decide (a m : Byte) (carry : Bool) :
    addOverflow a m carry =
      decide (a.toInt + m.toInt + carry.toNat < -128 ∨ a.toInt + m.toInt + carry.toNat > 127) :=
  Bool.eq_iff_iff.2 ((addOverflow_iff_signed a m carry).trans decide_eq_true_iff.symm)

theorem flagsBecome_addStatus (p a m : Byte) :
    flagsBecome p (addStatus p a m) ((.c, decide (addSum a m (getFlag p .c) > 255)) ::
      (.v, addOverflow a m (getFlag p .c)) :: znOf (addResult a m (getFlag p .c))) := by
  intro f
  rw [getFlag_addStatus]
  cases f <;> rfl

theorem exec_adc_of_ready {s : State} {o : AluOperand} (h : operandReady s o.operand = true) :
    exec (.adc o) s = .next { s with
      a := addResult s.a (operandByte s o.operand) (s.flag .c)
      p := addStatus s.p s.a (operandByte s o.operand)
      cycles := cyclesAfter s (.adc o) o.operand } :=
  (exec_adc s o).trans (readOperand_eq h rfl rfl)

/-! ### Subtraction as addition of the complement (spec R152) -/

theorem exec_sbc_of_ready {s : State} {o : AluOperand} (h : operandReady s o.operand = true) :
    exec (.sbc o) s = .next { s with
      a := addResult s.a (operandByte s o.operand ^^^ 0xFF#8) (s.flag .c)
      p := addStatus s.p s.a (operandByte s o.operand ^^^ 0xFF#8)
      cycles := cyclesAfter s (.sbc o) o.operand } :=
  (exec_sbc s o).trans (readOperand_eq h rfl rfl)

/-- The adder's sum of the complement is the difference with borrow, 256 too high. -/
theorem addSum_complement (a m : Byte) (carry : Bool) :
    (addSum a (m ^^^ 0xFF#8) carry : Int) = (a.toNat : Int) - m.toNat - (1 - carry.toNat) + 256 := by
  have hm := m.isLt
  rw [addSum, toNat_xor_ones]
  omega

theorem addResult_complement (a m : Byte) (carry : Bool) :
    addResult a (m ^^^ 0xFF#8) carry = BitVec.ofInt 8 ((a.toNat : Int) - m.toNat - (1 - carry.toNat)) := by
  apply BitVec.eq_of_toNat_eq
  have hsum := addSum_complement a m carry
  rw [toNat_addResult, BitVec.toNat_ofInt]
  omega

/-- The adder carries exactly when the subtraction does not borrow. -/
theorem addSum_complement_gt_iff (a m : Byte) (carry : Bool) :
    addSum a (m ^^^ 0xFF#8) carry > 255 ↔ 0 ≤ (a.toNat : Int) - m.toNat - (1 - carry.toNat) := by
  have hsum := addSum_complement a m carry
  omega

/-- Adding the complement as a signed number is subtracting with borrow. -/
theorem toInt_add_complement (a m : Byte) (carry : Bool) :
    a.toInt + (m ^^^ 0xFF#8).toInt + carry.toNat = a.toInt - m.toInt - (1 - carry.toNat) := by
  have hm := m.isLt
  rw [toInt_eq_toNat_sub (m ^^^ 0xFF#8), toInt_eq_toNat_sub m, toNat_xor_ones]
  split <;> split <;> omega

theorem cyclesAfter_of_form {i : Instr} {bytes : List Byte} {n : Nat} {eligible : Bool}
    (hform : hasForm i bytes n eligible) (s : State) (o : Operand) :
    cyclesAfter s i o = s.cycles + n + if eligible && (resolve s o).crossed then 1 else 0 := by
  obtain ⟨-, hcost, hcross⟩ := hform
  rw [cyclesAfter, crossingCycles, hcost, hcross]

/-- Both instructions have one effect, and in their immediate forms one cost. -/
theorem exec_sbc_imm (s : State) (m : Byte) :
    exec (.sbc (.imm m)) s = exec (.adc (.imm (m ^^^ 0xFF#8))) s := by
  have hsbc : hasForm (.sbc (.imm m)) [0xE9#8, m] 2 false := hasForm_of rfl rfl rfl rfl
  have hadc : hasForm (.adc (.imm (m ^^^ 0xFF#8))) [0x69#8, m ^^^ 0xFF#8] 2 false := hasForm_of rfl rfl rfl rfl
  rw [exec_sbc_of_ready rfl, exec_adc_of_ready rfl, cyclesAfter_of_form hsbc, cyclesAfter_of_form hadc]
  rfl

/-- Settles O4: ADC and SBC are the adder on the byte and on its complement; the rest is arithmetic of its
sum. -/
theorem addAndSubtract : Obligations.AddAndSubtract := by
  refine ⟨?adcForms, ?sbcForms, ?adc, ?sbc, exec_sbc_imm⟩
  case adcForms | sbcForms =>
    intro b w
    refine ⟨?_, ?_, ?_, ?_, ?_, ?_, ?_, ?_⟩ <;> exact hasForm_of rfl rfl rfl rfl
  case adc =>
    rintro s o m r signed h rfl rfl rfl
    have hflags := flagsBecome_addStatus s.p s.a (operandByte s o.operand)
    rw [addOverflow_eq_decide, addResult_eq_ofNat_mod] at hflags
    exact ⟨_, addResult_eq_ofNat_mod s.a (operandByte s o.operand) (s.flag .c) ▸ exec_adc_of_ready h, hflags⟩
  case sbc =>
    rintro s o m d signed h rfl rfl rfl
    have hflags := flagsBecome_addStatus s.p s.a (operandByte s o.operand ^^^ 0xFF#8)
    rw [addOverflow_eq_decide, toInt_add_complement, addResult_complement,
      decide_eq_decide.2 (addSum_complement_gt_iff ..)] at hflags
    exact ⟨_, addResult_complement s.a (operandByte s o.operand) (s.flag .c) ▸ exec_sbc_of_ready h, hflags⟩

/-! ### Logic, BIT and the compares -/

theorem flagsBecome_bitTestStatus (p a m : Byte) :
    flagsBecome p (bitTestStatus p a m)
      [(.z, a &&& m == 0#8), (.n, m.getLsbD 7), (.v, m.getLsbD 6)] := by
  intro f
  rw [getFlag_bitTestStatus]
  cases f <;> rfl

/-- Bit 7 of a difference, by numbers. -/
theorem getLsbD_seven_sub (r m : Byte) :
    (r - m).getLsbD 7 = decide ((r.toNat + 256 - m.toNat) % 256 ≥ 128) := by
  have hm := m.isLt
  rw [getLsbD_seven_eq_decide, BitVec.toNat_sub, ← Nat.sub_add_comm hm.le, Nat.add_comm (2 ^ 8)]

theorem flagsBecome_compareStatus (p r m : Byte) :
    flagsBecome p (compareStatus p r m) [(.c, decide (r.toNat ≥ m.toNat)), (.z, decide (r = m)),
      (.n, decide ((r.toNat + 256 - m.toNat) % 256 ≥ 128))] := by
  intro f
  rw [getFlag_compareStatus, ← getLsbD_seven_sub]
  cases f <;> rfl

/-- Settles O6: each is a read whose effect puts the combined byte in A and is `SetZN` of it. -/
theorem logicCombinesBitwise : Obligations.LogicCombinesBitwise := by
  refine ⟨?andForms, ?oraForms, ?eorForms, fun s o h => ⟨?and, ?ora, ?eor⟩⟩
  case andForms | oraForms | eorForms =>
    intro b w
    refine ⟨?_, ?_, ?_, ?_, ?_, ?_, ?_, ?_⟩ <;> exact hasForm_of rfl rfl rfl rfl
  case and =>
    exact ⟨_, _, (exec_and s o).trans (readOperand_eq h rfl rfl), fun _ => BitVec.getLsbD_and,
      flagsBecome_withZN s.p _⟩
  case ora =>
    exact ⟨_, _, (exec_ora s o).trans (readOperand_eq h rfl rfl), fun _ => BitVec.getLsbD_or,
      flagsBecome_withZN s.p _⟩
  case eor =>
    exact ⟨_, _, (exec_eor s o).trans (readOperand_eq h rfl rfl), fun _ => BitVec.getLsbD_xor,
      flagsBecome_withZN s.p _⟩

/-- Settles O7: a read whose effect is on the status byte alone. -/
theorem bitTestsTheOperand : Obligations.BitTestsTheOperand := by
  refine ⟨fun b w => ⟨?zeroPage, ?absolute⟩, fun s o h => ?bit⟩
  case zeroPage | absolute => exact hasForm_of rfl rfl rfl rfl
  case bit =>
    exact ⟨_, (exec_bit s o).trans (readOperand_eq h rfl rfl), flagsBecome_bitTestStatus s.p s.a _⟩

/-- Settles O8: each is a read whose effect is `Compare` of its register with the byte. -/
theorem compareSetsCarryZeroNegative : Obligations.CompareSetsCarryZeroNegative := by
  refine ⟨?cmpForms, ?cpxForms, ?cpyForms, ?cmp, ?cpx, ?cpy⟩
  case cmpForms =>
    intro b w
    refine ⟨?_, ?_, ?_, ?_, ?_, ?_, ?_, ?_⟩ <;> exact hasForm_of rfl rfl rfl rfl
  case cpxForms | cpyForms =>
    intro b w
    refine ⟨?_, ?_, ?_⟩ <;> exact hasForm_of rfl rfl rfl rfl
  case cmp =>
    rintro s o m h rfl
    exact ⟨_, (exec_cmp s o).trans (readOperand_eq h rfl rfl), flagsBecome_compareStatus s.p s.a _⟩
  case cpx =>
    rintro s o m h rfl
    exact ⟨_, (exec_cpx s o).trans (readOperand_eq h rfl rfl), flagsBecome_compareStatus s.p s.x _⟩
  case cpy =>
    rintro s o m h rfl
    exact ⟨_, (exec_cpy s o).trans (readOperand_eq h rfl rfl), flagsBecome_compareStatus s.p s.y _⟩

/-! ### Increments and decrements -/

/-- A read-modify-write of a ready operand whose address is accessible: the new byte stored, the flags, the
cost. -/
theorem modifyOperand_of_ready {s : State} {o : Operand} {g : Byte → Byte → Byte × Byte} (i : Instr)
    (h : operandReady s o = true) (ha : accessible s (resolve s o).addr = true) :
    modifyOperand s i o g = .next { s with
      ram := ramAfterStore s (resolve s o).addr (g (operandByte s o) s.p).1
      p := (g (operandByte s o) s.p).2
      cycles := cyclesAfter s i o } := by
  rw [modifyOperand, operandValue_of_ready h, andThen_next, busWrite_of_accessible _ ha, andThen_next]
  exact congrArg _ (charge_crossing i o rfl rfl)

theorem modifyOperand_of_disabled {s : State} {o : Operand} {g : Byte → Byte → Byte × Byte} (i : Instr)
    (h : operandDisabled s o = true) :
    modifyOperand s i o g = .fault (.busFault (resolve s o).addr) := by
  rw [modifyOperand, operandValue_of_disabled h, andThen_fault]

/-- A read-modify-write operand is never an immediate, so it is ready as soon as its address is accessible. -/
theorem operandReady_rmw (s : State) (o : RmwOperand) :
    operandReady s o.operand = accessible s (resolve s o.operand).addr := by
  cases o <;> rfl

/-- An instruction that is a read-modify-write modifies its operand's byte as its function says. -/
theorem modifiesByte_of_modifyOperand {s : State} {i : Instr} {o : RmwOperand} {g : Byte → Byte → Byte × Byte}
    {f : Byte → Byte} {fs : Byte → List (Flag × Bool)} (hexec : exec i s = modifyOperand s i o.operand g)
    (hbyte : ∀ v, (g v s.p).1 = f v) (hflags : ∀ v, flagsBecome s.p (g v s.p).2 (fs v)) :
    modifiesByte i o.operand f fs s := by
  refine ⟨fun h => ⟨_, ?_, hflags _⟩, fun h => hexec.trans (modifyOperand_of_disabled i h)⟩
  rw [hexec, modifyOperand_of_ready i h (operandReady_rmw s o ▸ h), hbyte]

/-- Settles O9: INC and DEC are read-modify-writes whose flags are `SetZN` of the new byte. -/
theorem incrementAndDecrementMemory : Obligations.IncrementAndDecrementMemory := by
  refine ⟨?incForms, ?decForms, fun s o => ⟨?inc, ?dec⟩⟩
  case incForms | decForms =>
    intro b w
    refine ⟨?_, ?_, ?_, ?_⟩ <;> exact hasForm_of rfl rfl rfl rfl
  case inc =>
    refine modifiesByte_of_modifyOperand (exec_inc s o) add_one_eq_ofNat fun v => ?_
    rw [← add_one_eq_ofNat]
    exact flagsBecome_withZN s.p _
  case dec =>
    refine modifiesByte_of_modifyOperand (exec_dec s o) sub_one_eq_ofNat fun v => ?_
    rw [← sub_one_eq_ofNat]
    exact flagsBecome_withZN s.p _

/-- Settles O10: the forms give the cost; each effect is `SetZN` of the register stepped modulo 256. -/
theorem incrementAndDecrementIndex : Obligations.IncrementAndDecrementIndex := by
  have hinx : hasForm .inx [0xE8#8] 2 false := hasForm_of rfl rfl rfl rfl
  have hiny : hasForm .iny [0xC8#8] 2 false := hasForm_of rfl rfl rfl rfl
  have hdex : hasForm .dex [0xCA#8] 2 false := hasForm_of rfl rfl rfl rfl
  have hdey : hasForm .dey [0x88#8] 2 false := hasForm_of rfl rfl rfl rfl
  refine ⟨⟨hinx, hiny, hdex, hdey⟩, fun s => ⟨?inx, ?iny, ?dex, ?dey⟩⟩
  case inx =>
    exact ⟨_, _, (exec_inx s).trans (inherent_eq hinx rfl rfl), toNat_add_one s.x, flagsBecome_withZN s.p _⟩
  case iny =>
    exact ⟨_, _, (exec_iny s).trans (inherent_eq hiny rfl rfl), toNat_add_one s.y, flagsBecome_withZN s.p _⟩
  case dex =>
    exact ⟨_, _, (exec_dex s).trans (inherent_eq hdex rfl rfl), toNat_sub_one s.x, flagsBecome_withZN s.p _⟩
  case dey =>
    exact ⟨_, _, (exec_dey s).trans (inherent_eq hdey rfl rfl), toNat_sub_one s.y, flagsBecome_withZN s.p _⟩

end Sys2Proof.Machine
end

section
/-! ## Shifts and rotates (spec 43_shift_rotate.md) -/

namespace Sys2Proof.Machine

/-! ### What the byte functions compute, as numbers -/

theorem getLsbD_zero_eq_decide (v : Byte) : v.getLsbD 0 = decide (v.toNat % 2 = 1) := by
  rw [BitVec.getLsbD, Nat.testBit_zero]

theorem shiftLeft_eq (v : Byte) (carry : Bool) :
    shiftLeft v carry = (BitVec.ofNat 8 (2 * v.toNat % 256), decide (v.toNat ≥ 128)) := by
  refine Prod.ext (BitVec.eq_of_toNat_eq ?_) (getLsbD_seven_eq_decide v)
  simp only [shiftLeft, BitVec.toNat_shiftLeft, BitVec.toNat_ofNat]
  omega

theorem shiftRight_eq (v : Byte) (carry : Bool) :
    shiftRight v carry = (BitVec.ofNat 8 (v.toNat / 2), decide (v.toNat % 2 = 1)) := by
  refine Prod.ext (BitVec.eq_of_toNat_eq ?_) (getLsbD_zero_eq_decide v)
  simp only [shiftRight, BitVec.toNat_ushiftRight, BitVec.toNat_ofNat]
  omega

/-- ROL shifts the byte and appends the carry below it. -/
theorem rotateLeft_eq_shiftConcat (v : Byte) (carry : Bool) :
    rotateLeft v carry = (v.shiftConcat carry, v.getLsbD 7) := by
  refine Prod.ext (BitVec.eq_of_getLsbD_eq fun i hi => ?_) rfl
  rw [BitVec.getLsbD_shiftConcat]
  cases i with
  | zero => cases carry <;> simp [rotateLeft]
  | succ i => cases carry <;> simp [rotateLeft, hi, BitVec.getLsbD_eq_getElem (show i < 8 by omega)]

theorem rotateLeft_eq (v : Byte) (carry : Bool) :
    rotateLeft v carry = (BitVec.ofNat 8 (2 * v.toNat % 256 + carry.toNat), decide (v.toNat ≥ 128)) := by
  rw [rotateLeft_eq_shiftConcat]
  refine Prod.ext (BitVec.eq_of_toNat_eq ?_) (getLsbD_seven_eq_decide v)
  simp only [BitVec.toNat_shiftConcat, BitVec.toNat_ofNat]
  omega

theorem shiftRight_and_signBit : ∀ v : Byte, v >>> 1 &&& 0x80#8 = 0#8 := by decide

/-- The bit that ROR vacates is clear, so the carry that enters there is added. -/
theorem rotateRight_fst_eq_add (v : Byte) (carry : Bool) :
    (rotateRight v carry).1 = v >>> 1 + if carry then 0x80#8 else 0x00#8 := by
  refine (BitVec.add_eq_or_of_and_eq_zero _ _ ?_).symm
  cases carry
  · exact BitVec.and_zero
  · exact shiftRight_and_signBit v

theorem rotateRight_eq (v : Byte) (carry : Bool) :
    rotateRight v carry = (BitVec.ofNat 8 (v.toNat / 2 + 128 * carry.toNat), decide (v.toNat % 2 = 1)) := by
  refine Prod.ext (BitVec.eq_of_toNat_eq ?_) (getLsbD_zero_eq_decide v)
  have hcarry : (if carry then 0x80#8 else 0x00#8).toNat = 128 * carry.toNat := by cases carry <;> rfl
  rw [rotateRight_fst_eq_add, BitVec.toNat_add, hcarry, BitVec.toNat_ushiftRight, BitVec.toNat_ofNat,
    Nat.shiftRight_one]

/-! ### What a shift instruction answers -/

theorem shiftOp_acc {s : State} {i : Instr} {f : Byte → Bool → Byte × Bool} :
    shiftOp s i f .acc = inherent s i fun s =>
      (s.setA (f s.a (s.flag .c)).1).setP (shiftStatus s.p (f s.a (s.flag .c)).1 (f s.a (s.flag .c)).2) := rfl

theorem shiftOp_mem {s : State} {i : Instr} {f : Byte → Bool → Byte × Bool} {o : RmwOperand} :
    shiftOp s i f (.mem o) = modifyOperand s i o.operand fun v p =>
      ((f v (getFlag p .c)).1, shiftStatus p (f v (getFlag p .c)).1 (f v (getFlag p .c)).2) := rfl

/-- A shift of the accumulator always goes on. -/
theorem shiftOp_acc_eq {s : State} {i : Instr} {f : Byte → Bool → Byte × Bool} {bytes : List Byte} {n : Nat}
    {eligible : Bool} (hform : hasForm i bytes n eligible) :
    shiftOp s i f .acc = .next { s with
      a := (f s.a (s.flag .c)).1
      p := shiftStatus s.p (f s.a (s.flag .c)).1 (f s.a (s.flag .c)).2
      cycles := s.cycles + n } :=
  shiftOp_acc.trans (inherent_eq hform rfl rfl)

/-- An instruction that is a `ShiftOp` shifts as the byte function it is given says. -/
theorem shifts_of_shiftOp {s : State} {mk : ShiftOperand → Instr} {f : Byte → Bool → Byte × Bool}
    {r : Byte → Bool → Byte} {c : Byte → Bool} {bytes : List Byte} {eligible : Bool}
    (hform : hasForm (mk .acc) bytes 2 eligible) (hexec : ∀ o, exec (mk o) s = shiftOp s (mk o) f o)
    (hf : ∀ v carry, f v carry = (r v carry, c v)) : shifts mk r c s := by
  refine ⟨⟨_, ?acc, flagsBecome_shiftStatus s.p _ _⟩, fun o => ?mem⟩
  case acc => rw [hexec, shiftOp_acc_eq hform, hf]
  case mem =>
    refine modifiesByte_of_modifyOperand ((hexec (.mem o)).trans shiftOp_mem)
      (fun v => congrArg Prod.fst (hf v (s.flag .c))) fun v => ?_
    simp only [hf]
    exact flagsBecome_shiftStatus s.p _ _

/-- Settles O11: each is a `ShiftOp` whose byte function doubles or halves. -/
theorem shiftsMoveOneBit : Obligations.ShiftsMoveOneBit := by
  have hasl : hasForm (.asl .acc) [0x0A#8] 2 false := hasForm_of rfl rfl rfl rfl
  have hlsr : hasForm (.lsr .acc) [0x4A#8] 2 false := hasForm_of rfl rfl rfl rfl
  refine ⟨hasl, ?aslForms, hlsr, ?lsrForms, fun s =>
    ⟨shifts_of_shiftOp hasl (exec_asl s) shiftLeft_eq, shifts_of_shiftOp hlsr (exec_lsr s) shiftRight_eq⟩⟩
  case aslForms | lsrForms =>
    intro b w
    refine ⟨?_, ?_, ?_, ?_⟩ <;> exact hasForm_of rfl rfl rfl rfl

/-! ### The ring of nine bits that ROL turns (spec R173) -/

/-- The byte with the carry above it, as a ring: bit `k` of the nine, counted modulo 9. -/
def carryRing (v : Byte) (carry : Bool) (k : Nat) : Bool := (BitVec.cons carry v).getLsbD (k % 9)

theorem carryRing_of_lt (v : Byte) (carry : Bool) {k : Nat} (hk : k < 8) : carryRing v carry k = v.getLsbD k := by
  rw [carryRing, Nat.mod_eq_of_lt (by omega), BitVec.getLsbD_cons, if_neg hk.ne]

theorem carryRing_eight (v : Byte) (carry : Bool) : carryRing v carry 8 = carry := BitVec.getLsbD_cons ..

theorem carryRing_mod (v : Byte) (carry : Bool) (k : Nat) : carryRing v carry (k % 9) = carryRing v carry k := by
  rw [carryRing, carryRing, Nat.mod_mod]

/-- A ROL moves each bit of the ring one place up. -/
theorem carryRing_rotateLeft (v : Byte) (carry : Bool) (k : Nat) :
    carryRing (rotateLeft v carry).1 (rotateLeft v carry).2 (k + 1) = carryRing v carry k := by
  rw [← carryRing_mod, ← carryRing_mod v, Nat.add_mod, rotateLeft_eq_shiftConcat]
  have hk : k % 9 < 9 := Nat.mod_lt _ (by decide)
  generalize k % 9 = j at hk ⊢
  obtain rfl | rfl | hj : j = 8 ∨ j = 7 ∨ j < 7 := by omega
  · exact (carryRing_of_lt _ _ (by decide)).trans (by simp [carryRing_eight])
  · exact (carryRing_eight ..).trans (carryRing_of_lt v carry (by decide)).symm
  · rw [Nat.mod_eq_of_lt (by omega), carryRing_of_lt _ _ (by omega), carryRing_of_lt _ _ (by omega),
      BitVec.getLsbD_shiftConcat]
    simp [show j + 1 < 8 by omega]

theorem carryRing_add_nine (v : Byte) (carry : Bool) (k : Nat) : carryRing v carry (k + 9) = carryRing v carry k := by
  rw [carryRing, carryRing, Nat.add_mod_right]

/-- The ring determines the byte and the carry. -/
theorem eq_of_carryRing_eq {v v' : Byte} {carry carry' : Bool}
    (h : ∀ k, carryRing v carry k = carryRing v' carry' k) : v = v' ∧ carry = carry' := by
  refine ⟨BitVec.eq_of_getLsbD_eq fun i hi => ?_, ?_⟩
  · rw [← carryRing_of_lt v carry hi, h, carryRing_of_lt v' carry' hi]
  · rw [← carryRing_eight v carry, h, carryRing_eight]

/-- A ROL of A goes on, and turns the ring of A and C by one place. -/
theorem exec_rol_acc_turns (s : State) :
    ∃ t, exec (.rol .acc) s = .next t ∧ ∀ k, carryRing t.a (t.flag .c) (k + 1) = carryRing s.a (s.flag .c) k := by
  have hform : hasForm (.rol .acc) [0x2A#8] 2 false := hasForm_of rfl rfl rfl rfl
  refine ⟨_, (exec_rol s .acc).trans (shiftOp_acc_eq hform), fun k => ?_⟩
  simp only [State.flag, getFlag_shiftStatus]
  exact carryRing_rotateLeft s.a (s.flag .c) k

/-- Any number of ROLs of A turn the ring by as many places. -/
theorem repeat_rol_acc_turns (s : State) (n : Nat) :
    ∃ t, Nat.repeat (fun r => andThen r (exec (.rol .acc))) n (.next s) = .next t ∧
      ∀ k, carryRing t.a (t.flag .c) (k + n) = carryRing s.a (s.flag .c) k := by
  induction n with
  | zero => exact ⟨s, rfl, fun _ => rfl⟩
  | succ n ih =>
    obtain ⟨t, hrun, hring⟩ := ih
    obtain ⟨u, hstep, hturn⟩ := exec_rol_acc_turns t
    exact ⟨u, by rw [Nat.repeat, hrun, andThen_next, hstep], fun k => (hturn (k + n)).trans (hring k)⟩

/-- Settles O12: each is a `ShiftOp` whose byte function lets the carry in; nine turns of a ring of nine bits
bring it back to itself. -/
theorem rotatesMoveThroughCarry : Obligations.RotatesMoveThroughCarry := by
  have hrol : hasForm (.rol .acc) [0x2A#8] 2 false := hasForm_of rfl rfl rfl rfl
  have hror : hasForm (.ror .acc) [0x6A#8] 2 false := hasForm_of rfl rfl rfl rfl
  refine ⟨hrol, ?rolForms, hror, ?rorForms, fun s =>
    ⟨shifts_of_shiftOp hrol (exec_rol s) rotateLeft_eq, shifts_of_shiftOp hror (exec_ror s) rotateRight_eq⟩,
    fun s => ?nine⟩
  case rolForms | rorForms =>
    intro b w
    refine ⟨?_, ?_, ?_, ?_⟩ <;> exact hasForm_of rfl rfl rfl rfl
  case nine =>
    obtain ⟨t, hrun, hring⟩ := repeat_rol_acc_turns s 9
    exact ⟨t, hrun, eq_of_carryRing_eq fun k => (carryRing_add_nine ..).symm.trans (hring k)⟩

end Sys2Proof.Machine
end

section
/-! ## Jumps (spec 44_branch_jump.md section 2) -/

namespace Sys2Proof.Machine

/-! ### The pointer of an indirect jump (spec R114) -/

/-- Masking off the low byte gives the start of the page. -/
theorem toNat_and_pageMask (w : Word) : (w &&& 0xFF00#16).toNat = w.toNat - w.toNat % 256 := by
  have hmask : w &&& 0xFF00#16 = w >>> 8 <<< 8 := (BitVec.shiftLeft_ushiftRight (x := w) (n := 8)).symm
  have hlt := w.isLt
  rw [hmask, BitVec.toNat_shiftLeft, BitVec.toNat_ushiftRight, Nat.shiftRight_eq_div_pow, Nat.shiftLeft_eq]
  omega

theorem loByte_eq_ones_iff (w : Word) : loByte w = 0xFF#8 ↔ w.toNat % 256 = 255 := by
  rw [← BitVec.toNat_inj, toNat_loByte]
  rfl

theorem toNat_pointerHighAddress (ptr : Word) : (pointerHighAddress ptr).toNat =
    if ptr.toNat % 256 = 255 then ptr.toNat - 255 else ptr.toNat + 1 := by
  simp only [pointerHighAddress, loByte_eq_ones_iff]
  split
  case isTrue hend => rw [toNat_and_pageMask, hend]
  case isFalse hinside =>
    rw [BitVec.toNat_add, show (1 : Word).toNat = 1 from rfl]
    omega

theorem pointerHighAddress_eq {ptr high : Word}
    (h : high.toNat = if ptr.toNat % 256 = 255 then ptr.toNat - 255 else ptr.toNat + 1) :
    pointerHighAddress ptr = high :=
  BitVec.eq_of_toNat_eq ((toNat_pointerHighAddress ptr).trans h.symm)

/-! ### What a jump answers -/

theorem jumpTarget_ind_of_accessible {s : State} {ptr : Word} (hlow : accessible s ptr = true)
    (hhigh : accessible s (pointerHighAddress ptr) = true) :
    jumpTarget s (.ind ptr) = .next (mkWord (byteAt s (pointerHighAddress ptr)) (byteAt s ptr)) := by
  rw [jumpTarget, busRead_of_accessible hlow, andThen_next, busRead_of_accessible hhigh, andThen_next]

/-- A jump whose target is known goes there, at the base cost of its form. -/
theorem exec_jmp_eq {s : State} {o : JmpOperand} {target : Word} {bytes : List Byte} {n : Nat} {eligible : Bool}
    (hform : hasForm (.jmp o) bytes n eligible) (htarget : jumpTarget s o = .next target) :
    exec (.jmp o) s = .next { s with pc := target, cycles := s.cycles + n } := by
  obtain ⟨-, hcost, -⟩ := hform
  rw [exec_jmp, htarget, andThen_next, State.charge, State.setPc_params, hcost]
  rfl

/-- Settles O14: the target is the operand itself, or the word made of the bytes at the pointer's two
addresses. -/
theorem jumpLoadsPc : Obligations.JumpLoadsPc := by
  have habs (w : Word) : hasForm (.jmp (.abs w)) [0x4C#8, loByte w, hiByte w] 3 false := hasForm_of rfl rfl rfl rfl
  have hind (w : Word) : hasForm (.jmp (.ind w)) [0x6C#8, loByte w, hiByte w] 5 false := hasForm_of rfl rfl rfl rfl
  refine ⟨fun w => ⟨habs w, hind w⟩, fun s w => exec_jmp_eq (habs w) rfl, fun s ptr high hlow hhigh h => ?indirect⟩
  case indirect =>
    obtain rfl := pointerHighAddress_eq h
    exact exec_jmp_eq (hind ptr) (jumpTarget_ind_of_accessible hlow hhigh)

end Sys2Proof.Machine
end

section
/-! ## Stack and flag instructions (spec 45_stack_flags_system.md) -/

namespace Sys2Proof.Machine

/-! ### The status byte on the stack -/

theorem flagsBecome_statusPushedByInstruction (p : Byte) :
    flagsBecome p (statusPushedByInstruction p) [(.b, true), (.u, true)] := by
  intro f
  rw [getFlag_statusPushedByInstruction]
  cases f <;> rfl

theorem flagsBecome_statusPulled (v : Byte) : flagsBecome v (statusPulled v) [(.u, true)] :=
  getFlag_statusPulled v

/-! ### The statements -/

/-- Settles O17: the forms give the cost; the effects are one `Push` or one `Pull`, whose stack location is
0x0100 plus S before the push or after the pull. -/
theorem stackInstructions : Obligations.StackInstructions := by
  have hpha : hasForm .pha [0x48#8] 3 false := hasForm_of rfl rfl rfl rfl
  have hphp : hasForm .php [0x08#8] 3 false := hasForm_of rfl rfl rfl rfl
  have hpla : hasForm .pla [0x68#8] 4 false := hasForm_of rfl rfl rfl rfl
  have hplp : hasForm .plp [0x28#8] 4 false := hasForm_of rfl rfl rfl rfl
  refine ⟨⟨hpha, hphp, hpla, hplp⟩, fun s => ⟨?pha, ?php, ?pla, ?plp⟩⟩
  case pha => exact (exec_pha s).trans (inherent_eq hpha rfl rfl)
  case php =>
    exact ⟨_, (exec_php s).trans (inherent_eq hphp rfl rfl), flagsBecome_statusPushedByInstruction s.p⟩
  case pla => exact ⟨_, (exec_pla s).trans (inherent_eq hpla rfl rfl), flagsBecome_withZN s.p s.pulled⟩
  case plp => exact ⟨_, (exec_plp s).trans (inherent_eq hplp rfl rfl), flagsBecome_statusPulled s.pulled⟩

/-- An instruction whose effect is to write one flag changes that flag and, by the cost of its form, the
counter. -/
theorem exec_writes_flag {s : State} {i : Instr} {f : Flag} {v : Bool} {bytes : List Byte} {n : Nat}
    {eligible : Bool} (hform : hasForm i bytes n eligible)
    (hexec : exec i s = inherent s i fun s => s.putFlag f v) :
    ∃ p, exec i s = .next { s with p := p, cycles := s.cycles + n } ∧ flagsBecome s.p p [(f, v)] :=
  ⟨_, hexec.trans (inherent_eq hform rfl rfl), flagsBecome_putFlag s.p f v⟩

/-- Settles O18: the forms give the cost; each flag instruction writes one flag, and NOP has no effect. -/
theorem flagInstructionsAndNop : Obligations.FlagInstructionsAndNop := by
  have hclc : hasForm .clc [0x18#8] 2 false := hasForm_of rfl rfl rfl rfl
  have hsec : hasForm .sec [0x38#8] 2 false := hasForm_of rfl rfl rfl rfl
  have hcli : hasForm .cli [0x58#8] 2 false := hasForm_of rfl rfl rfl rfl
  have hsei : hasForm .sei [0x78#8] 2 false := hasForm_of rfl rfl rfl rfl
  have hcld : hasForm .cld [0xD8#8] 2 false := hasForm_of rfl rfl rfl rfl
  have hsed : hasForm .sed [0xF8#8] 2 false := hasForm_of rfl rfl rfl rfl
  have hclv : hasForm .clv [0xB8#8] 2 false := hasForm_of rfl rfl rfl rfl
  have hnop : hasForm .nop [0xEA#8] 2 false := hasForm_of rfl rfl rfl rfl
  refine ⟨⟨hclc, hsec, hcli, hsei, hcld, hsed, hclv, hnop⟩,
    fun s => ⟨?clc, ?sec, ?cli, ?sei, ?cld, ?sed, ?clv, ?nop⟩⟩
  case clc => exact exec_writes_flag hclc (exec_clc s)
  case sec => exact exec_writes_flag hsec (exec_sec s)
  case cli => exact exec_writes_flag hcli (exec_cli s)
  case sei => exact exec_writes_flag hsei (exec_sei s)
  case cld => exact exec_writes_flag hcld (exec_cld s)
  case sed => exact exec_writes_flag hsed (exec_sed s)
  case clv => exact exec_writes_flag hclv (exec_clv s)
  case nop => exact (exec_nop s).trans (inherent_eq hnop rfl rfl)

end Sys2Proof.Machine
end

section
/-! ## Interrupts (spec 60_exceptions.md section 2) -/

namespace Sys2Proof.Machine

/-! ### CPU clocks in a row (spec 40_step_and_addressing.md R100) -/

theorem cpuClocks_one (s : State) : cpuClocks 1 s = cpuClock s := by
  rw [cpuClocks]
  cases cpuClock s <;> rfl

theorem cpuClocks_add_of_next {j : Nat} {s t : State} (h : cpuClocks j s = .next t) (k : Nat) :
    cpuClocks (j + k) s = cpuClocks k t := by
  induction j generalizing s with
  | zero =>
    obtain rfl : s = t := Host.Outcome.next.inj h
    rw [Nat.zero_add]
  | succ j ih =>
    obtain ⟨u, hfirst, hrest⟩ := andThen_eq_next.1 h
    rw [Nat.add_right_comm, cpuClocks, hfirst, andThen_next, ih hrest]

/-- As many clocks as cycles are owed, or fewer, only count them down. -/
theorem cpuClocks_of_le_cycles {k : Nat} {s : State} (h : k ≤ s.cycles) :
    cpuClocks k s = .next { s with cycles := s.cycles - k } := by
  induction k generalizing s with
  | zero => rfl
  | succ k ih =>
    have hle : k ≤ (s.setCycles (s.cycles - 1)).cycles := Nat.le_sub_one_of_lt h
    rw [cpuClocks, cpuClock_owed (by omega), andThen_next, ih hle, State.setCycles_cycles, Nat.sub_right_comm]
    rfl

/-- The clock after those performs a step. -/
theorem cpuClocks_cycles_add_one (s : State) :
    cpuClocks (s.cycles + 1) s =
      andThen (cpuStep { s with cycles := 0 }) fun t => .next { t with cycles := t.cycles - 1 } := by
  rw [cpuClocks_add_of_next (cpuClocks_of_le_cycles (Nat.le_refl _)), Nat.sub_self, cpuClocks_one, cpuClock_due rfl]
  rfl

/-! ### The interrupt sequence -/

theorem flagsBecome_statusPushedByInterrupt (p : Byte) :
    flagsBecome p (statusPushedByInterrupt p) [(.b, false), (.u, true)] :=
  getFlag_statusPushedByInterrupt p

/-- The three pushes change RAM and S alone. -/
theorem interruptFrame_eq (s : State) (returnPc : Word) (status : Byte) :
    interruptFrame s returnPc status =
      { s with ram := framePushed s returnPc status, sp := s.sp - 3 } := by
  have htwo : s.sp - 1 - 1 = s.sp - 2 := by bv_omega
  have hthree : s.sp - 2 - 1 = s.sp - 3 := by bv_omega
  simp only [interruptFrame, State.push, State.setRam, State.setSp, stackIndex, framePushed, htwo, hthree]

/-- What the interrupt sequence answers with a Mapper in the slot, field by field. -/
theorem takeInterrupt_eq_vectorWord {s : State} {m : Mapper} (hm : s.mapper = some m) {vector : Word}
    (hlow : region vector = .cartridge) (hhigh : region (vector + 1) = .cartridge) (returnPc : Word)
    (status : Byte) :
    takeInterrupt s vector returnPc status = .next { s with
      ram := framePushed s returnPc status
      sp := s.sp - 3
      p := putFlag s.p .i true
      pc := vectorWord m vector } := by
  rw [takeInterrupt_eq hm hlow hhigh, interruptFrame_eq]
  rfl

/-! ### The host's interrupt inputs -/

theorem whenRunning_of_running {α : Type} {s : State} (h : running s = true) (x : Result α) :
    whenRunning s x = x := by
  obtain ⟨hf, hc, hm⟩ := running_iff.1 h
  exact whenRunning_eq hf hc hm x

theorem hostOp_irq_of_next {s t : State} (h : running s = true) (ht : irq s = .next t) :
    hostOp .irq s = .next (t, .none) := by
  rw [hostOp, whenRunning_of_running h, ht, andThen_next]

theorem irq_of_masked {s : State} (h : s.flag .i = true) : irq s = .next s := by
  rw [irq, if_pos h]

/-- A taken `irq()` is the interrupt sequence for its vector, and 7 cycles owed. -/
theorem irq_of_unmasked {s : State} {m : Mapper} (hm : s.mapper = some m) (h : s.flag .i = false) :
    irq s = .next { s with
      ram := framePushed s s.pc (statusPushedByInterrupt s.p)
      sp := s.sp - 3
      p := putFlag s.p .i true
      pc := vectorWord m irqVector
      cycles := 7 } := by
  have hi : ¬s.flag .i = true := by simp [h]
  rw [irq, if_neg hi, takeInterrupt_eq_vectorWord hm (by decide) (by decide)]
  rfl

/-- Settles O22: a masked `irq()` answers the state it found; a taken one is the interrupt sequence; from 7 cycles
owed, 7 clocks count down and the next steps. -/
theorem maskableInterrupt : Obligations.MaskableInterrupt := by
  refine ⟨fun s hr hi => ?masked, fun s m hr hm hi => ?taken, fun t ht => ⟨fun k hk => ?owed, ?due⟩⟩
  case masked => exact hostOp_irq_of_next hr (irq_of_masked hi)
  case taken =>
    exact ⟨_, _, hostOp_irq_of_next hr (irq_of_unmasked hm hi), flagsBecome_putFlag s.p .i true,
      flagsBecome_statusPushedByInterrupt s.p⟩
  case owed => rw [cpuClocks_of_le_cycles (ht ▸ hk), ht]
  case due => simpa only [ht] using cpuClocks_cycles_add_one t

end Sys2Proof.Machine
end

section
/-! ## Power-up and reset (spec 70_reset_and_hazards.md section 1) -/

namespace Sys2Proof.Machine

/-! ### The reset sequence -/

/-- What `Bus.reset()` answers with a Mapper in the slot, field by field (spec R261, R262). -/
theorem busReset_of_mapper {s : State} {m : Mapper} (hm : s.mapper = some m) :
    busReset s = .next { s with
      pc := vectorWord m resetVector
      p := 0x20#8
      sp := 0xFD#8
      a := 0x00#8
      x := 0x00#8
      y := 0x00#8
      cycles := 8
      mclk := 0 } := by
  rw [busReset, cpuReset, busRead16_cartridge (by decide) (by decide) hm]
  rfl

theorem hostOp_power_of_mapper {s : State} {m : Mapper} (hf : s.faulted = false) (hm : s.mapper = some m) :
    hostOp .power s = andThen (busReset (s.setConnected true)) fun t => .next (t, .none) := by
  have hslot : ¬s.mapper.isNone = true := by simp [hm]
  rw [hostOp, whenNotFaulted_eq hf, power, if_neg hslot]

theorem hostOp_reset_of_running {s : State} (h : running s = true) :
    hostOp .reset s = andThen (busReset s) fun t => .next (t, .none) := by
  rw [hostOp, whenRunning_of_running h]

theorem State.setConnected_eq_self {s : State} {b : Bool} (h : s.connected = b) : s.setConnected b = s := by
  subst h
  rfl

/-! ### The reset vector of Mapper 0 (spec 20_memory.md R59) -/

theorem Cartridge.prgIndex_resetVector (c : Cartridge) :
    c.prgIndex resetVector = if c.prgBanks = 1 then 0x3FFC else 0x7FFC := rfl

theorem Cartridge.prgIndex_resetVector_add_one (c : Cartridge) :
    c.prgIndex (resetVector + 1) = if c.prgBanks = 1 then 0x3FFD else 0x7FFD := rfl

theorem vectorWord_direct_resetVector (c : Cartridge) :
    vectorWord (.direct c) resetVector =
      if c.prgBanks = 1 then mkWord (c.prg.read 0x3FFD) (c.prg.read 0x3FFC)
      else mkWord (c.prg.read 0x7FFD) (c.prg.read 0x7FFC) := by
  rw [vectorWord, Mapper.cpuRead, Mapper.cpuRead, c.prgIndex_resetVector, c.prgIndex_resetVector_add_one]
  split <;> rfl

/-! ### Master ticks and the divide-by-3 phase (spec 60_exceptions.md R242) -/

@[simp] theorem running_setMclk (s : State) (n : Nat) : running (s.setMclk n) = running s := rfl

/-- A master tick that is no multiple of three advances the counter alone. -/
theorem clock_of_not_dvd {s : State} (h : running s = true) (hphase : (s.mclk + 1) % 3 ≠ 0) :
    clock s = .next (s.setMclk (s.mclk + 1)) := by
  rw [clock, whenRunning_of_running h, if_neg hphase]

/-- Every third master tick is a CPU clock. -/
theorem clock_of_dvd {s : State} (h : running s = true) (hphase : (s.mclk + 1) % 3 = 0) :
    clock s = cpuClock (s.setMclk (s.mclk + 1)) := by
  rw [clock, whenRunning_of_running h, if_pos hphase]

theorem ticks_one (s : State) : ticks 1 s = clock s := by
  rw [ticks]
  cases clock s <;> rfl

theorem ticks_add_of_next {j : Nat} {s t : State} (h : ticks j s = .next t) (k : Nat) :
    ticks (j + k) s = ticks k t := by
  induction j generalizing s with
  | zero =>
    obtain rfl : s = t := Host.Outcome.next.inj h
    rw [Nat.zero_add]
  | succ j ih =>
    obtain ⟨u, hfirst, hrest⟩ := andThen_eq_next.1 h
    rw [Nat.add_right_comm, ticks, hfirst, andThen_next, ih hrest]

/-- The ticks before the next third one only advance the counter. -/
theorem ticks_before_cpuClock {k : Nat} {s : State} (h : running s = true) (hphase : s.mclk % 3 + k < 3) :
    ticks k s = .next (s.setMclk (s.mclk + k)) := by
  induction k with
  | zero => rfl
  | succ k ih =>
    have hafter : ((s.setMclk (s.mclk + k)).mclk + 1) % 3 ≠ 0 := by
      rw [State.setMclk_mclk]
      omega
    rw [ticks_add_of_next (ih (by omega)), ticks_one, clock_of_not_dvd (by rwa [running_setMclk]) hafter]
    rfl

/-- From a counter of zero, two master ticks only count and the third is a CPU clock. -/
theorem ticks_from_mclk_zero {s : State} (h : running s = true) (hzero : s.mclk = 0) :
    ticks 2 s = .next (s.setMclk 2) ∧ ticks 3 s = cpuClock (s.setMclk 3) := by
  have htwo : ticks 2 s = .next (s.setMclk 2) := by
    rw [ticks_before_cpuClock h (by omega), hzero]
  refine ⟨htwo, ?_⟩
  have hr : running (s.setMclk 2) = true := by rwa [running_setMclk]
  rw [ticks_add_of_next htwo 1, ticks_one, clock_of_dvd hr (by rw [State.setMclk_mclk])]
  rfl

/-- Settles O27: both operations are the reset sequence, `power()` after setting the connection; from a counter
of zero the third master tick is the CPU clock; from 8 cycles owed, 8 clocks count down and the next steps. -/
theorem powerAndResetRunTheResetSequence : Obligations.PowerAndResetRunTheResetSequence := by
  refine ⟨fun s m hf hm => ⟨?power, fun hc => ?reset⟩, vectorWord_direct_resetVector, ?flags,
    fun t hr hzero => ticks_from_mclk_zero hr hzero, fun t ht => ⟨fun k hk => ?owed, ?due⟩⟩
  case power =>
    rw [hostOp_power_of_mapper hf hm, busReset_of_mapper (by simpa using hm), andThen_next]
    rfl
  case reset =>
    have hr : running s = true := running_iff.2 ⟨hf, hc, by simp [hm]⟩
    rw [hostOp_power_of_mapper hf hm, State.setConnected_eq_self hc, hostOp_reset_of_running hr]
  case flags => intro f; cases f <;> decide
  case owed => rw [cpuClocks_of_le_cycles (ht ▸ hk), ht]
  case due => simpa only [ht] using cpuClocks_cycles_add_one t

end Sys2Proof.Machine
end

section
/-! ## Decoding and encoding undo each other (spec 30_encoding.md R80 to R87) -/

namespace Sys2Proof

/-! ### The operand of a group is read back from its mode and its bytes -/

theorem AluOperand.ofMode_operand (o : AluOperand) :
    ofMode o.operand.mode (o.operand.bytes.getD 0 0) (o.operand.bytes.getD 1 0) = some o := by
  cases o <;> simp [ofMode, operand, Operand.mode, Operand.bytes]

theorem StaOperand.ofMode_operand (o : StaOperand) :
    ofMode o.operand.mode (o.operand.bytes.getD 0 0) (o.operand.bytes.getD 1 0) = some o := by
  cases o <;> simp [ofMode, operand, Operand.mode, Operand.bytes]

theorem LdxOperand.ofMode_operand (o : LdxOperand) :
    ofMode o.operand.mode (o.operand.bytes.getD 0 0) (o.operand.bytes.getD 1 0) = some o := by
  cases o <;> simp [ofMode, operand, Operand.mode, Operand.bytes]

theorem LdyOperand.ofMode_operand (o : LdyOperand) :
    ofMode o.operand.mode (o.operand.bytes.getD 0 0) (o.operand.bytes.getD 1 0) = some o := by
  cases o <;> simp [ofMode, operand, Operand.mode, Operand.bytes]

theorem StxOperand.ofMode_operand (o : StxOperand) :
    ofMode o.operand.mode (o.operand.bytes.getD 0 0) (o.operand.bytes.getD 1 0) = some o := by
  cases o <;> simp [ofMode, operand, Operand.mode, Operand.bytes]

theorem StyOperand.ofMode_operand (o : StyOperand) :
    ofMode o.operand.mode (o.operand.bytes.getD 0 0) (o.operand.bytes.getD 1 0) = some o := by
  cases o <;> simp [ofMode, operand, Operand.mode, Operand.bytes]

theorem BitOperand.ofMode_operand (o : BitOperand) :
    ofMode o.operand.mode (o.operand.bytes.getD 0 0) (o.operand.bytes.getD 1 0) = some o := by
  cases o <;> simp [ofMode, operand, Operand.mode, Operand.bytes]

theorem CpxOperand.ofMode_operand (o : CpxOperand) :
    ofMode o.operand.mode (o.operand.bytes.getD 0 0) (o.operand.bytes.getD 1 0) = some o := by
  cases o <;> simp [ofMode, operand, Operand.mode, Operand.bytes]

theorem RmwOperand.ofMode_operand (o : RmwOperand) :
    ofMode o.operand.mode (o.operand.bytes.getD 0 0) (o.operand.bytes.getD 1 0) = some o := by
  cases o <;> simp [ofMode, operand, Operand.mode, Operand.bytes]

theorem ShiftOperand.ofMode_operand (o : ShiftOperand) :
    ofMode o.mode (o.bytes.getD 0 0) (o.bytes.getD 1 0) = some o := by
  cases o with
  | acc => rfl
  | mem o =>
    have hmem : ofMode o.operand.mode (o.operand.bytes.getD 0 0) (o.operand.bytes.getD 1 0) =
        (RmwOperand.ofMode o.operand.mode (o.operand.bytes.getD 0 0) (o.operand.bytes.getD 1 0)).map .mem := by
      cases o <;> rfl
    rw [mode, bytes, hmem, RmwOperand.ofMode_operand, Option.map_some]

/-! ### An instruction is built back from its opcode and operand bytes -/

/-- The two transcriptions of the opcode table agree at every instruction. -/
theorem tableAgrees (i : Instr) : Laws.TableAgrees.Statement i := by
  open Laws.TableAgrees in
  exact match i with
  | .lda o => lda o | .ldx o => ldx o | .ldy o => ldy o | .sta o => sta o | .stx o => stx o | .sty o => sty o
  | .tax => tax | .tay => tay | .txa => txa | .tya => tya | .tsx => tsx | .txs => txs
  | .adc o => adc o | .sbc o => sbc o | .and o => and o | .ora o => ora o | .eor o => eor o | .bit o => bit o
  | .cmp o => cmp o | .cpx o => cpx o | .cpy o => cpy o | .inc o => inc o | .dec o => dec o
  | .inx => inx | .iny => iny | .dex => dex | .dey => dey
  | .asl o => asl o | .lsr o => lsr o | .rol o => rol o | .ror o => ror o
  | .bcc d => bcc d | .bcs d => bcs d | .beq d => beq d | .bne d => bne d
  | .bmi d => bmi d | .bpl d => bpl d | .bvc d => bvc d | .bvs d => bvs d
  | .jmp o => jmp o | .jsr w => jsr w | .rts => rts
  | .pha => pha | .php => php | .pla => pla | .plp => plp
  | .clc => clc | .sec => sec | .cli => cli | .sei => sei | .cld => cld | .sed => sed | .clv => clv
  | .nop => nop | .brk => brk | .rti => rti | .ill op => ill op

theorem Operand.length_bytes (o : Operand) : o.bytes.length = o.mode.operandBytes := by
  cases o <;> rfl

theorem ShiftOperand.length_bytes (o : ShiftOperand) : o.bytes.length = o.mode.operandBytes := by
  cases o with
  | acc => rfl
  | mem o => exact o.operand.length_bytes

theorem Instr.length_operandBytes (i : Instr) : i.operandBytes.length = i.mode.operandBytes := by
  cases i with
  | jmp o => cases o <;> rfl
  | asl o | lsr o | rol o | ror o => exact o.length_bytes
  | lda o | ldx o | ldy o | sta o | stx o | sty o => exact o.operand.length_bytes
  | adc o | sbc o | and o | ora o | eor o | bit o | cmp o | cpx o | cpy o | inc o | dec o =>
    exact o.operand.length_bytes
  | _ => rfl

/-- An operand that its group has gives the instruction with that operand. -/
theorem getD_map_of_eq_some {α : Type} {r : Option α} {o : α} (mk : α → Instr) (other : Instr) (h : r = some o) :
    (r.map mk).getD other = mk o := by
  rw [h, Option.map_some, Option.getD_some]

/-- Building from an entry with the mnemonic and the mode of an instruction, and from its bytes. -/
theorem build_of_agrees {e : Entry} (i : Instr) (hmnemonic : e.mnemonic = i.mnemonic) (hmode : e.mode = i.mode) :
    build e i.opcode (i.operandBytes.getD 0 0) (i.operandBytes.getD 1 0) = i := by
  obtain ⟨m, md, cost, extra⟩ := e
  obtain rfl : m = i.mnemonic := hmnemonic
  obtain rfl : md = i.mode := hmode
  cases i with
  | lda o | ldx o | ldy o | sta o | stx o | sty o => exact getD_map_of_eq_some _ _ o.ofMode_operand
  | adc o | sbc o | and o | ora o | eor o | bit o | cmp o | cpx o | cpy o | inc o | dec o =>
    exact getD_map_of_eq_some _ _ o.ofMode_operand
  | asl o | lsr o | rol o | ror o => exact getD_map_of_eq_some _ _ o.ofMode_operand
  | jmp o =>
    cases o with
    | abs w => exact congrArg (fun w => Instr.jmp (.abs w)) (mkWord_hiByte_loByte w)
    | ind w => exact congrArg (fun w => Instr.jmp (.ind w)) (mkWord_hiByte_loByte w)
  | jsr w => exact congrArg Instr.jsr (mkWord_hiByte_loByte w)
  | _ => rfl

/-- As many bytes as the opcode's mode needs hold the instruction. -/
theorem decode_append {op : Byte} {bs : List Byte} (h : bs.length = (entry op).mode.operandBytes)
    (rest : List Byte) : decode (op :: bs ++ rest) = .ok (decodeBytes op (bs.getD 0 0) (bs.getD 1 0), rest) := by
  have hle := Machine.entry_operandBytes_le op
  match bs with
  | [] | [b1] | [b1, b2] => simp [decode, ← h]
  | _ :: _ :: _ :: _ => simp at h; omega

/-- Settles O54: the entry at the opcode has the mnemonic and the mode of the instruction, so it is built back
from its bytes. -/
theorem decodeOfEncode : Obligations.DecodeOfEncode := by
  intro i rest hwf
  obtain ⟨hmnemonic, hmode⟩ := tableAgrees i hwf
  have hlength : i.operandBytes.length = (entry i.opcode).mode.operandBytes := by
    rw [hmode, i.length_operandBytes]
  rw [encode, decode_append hlength, decodeBytes, build_of_agrees i hmnemonic hmode]

/-! ### What decodes was encoded -/

/-- What begins a list of bytes that decodes: an opcode and the operand bytes its mode needs. -/
theorem decode_ok {bytes rest : List Byte} {i : Instr} (h : decode bytes = .ok (i, rest)) :
    ∃ op bs, bs.length = (entry op).mode.operandBytes ∧ bytes = op :: bs ++ rest ∧
      i = decodeBytes op (bs.getD 0 0) (bs.getD 1 0) := by
  unfold decode at h
  split at h
  · simp at h
  next op tail =>
    split at h
    next hn =>
      obtain ⟨rfl, rfl⟩ := Prod.mk.inj (Except.ok.inj h)
      exact ⟨op, [], hn.symm, rfl, rfl⟩
    next b1 _ hn =>
      obtain ⟨rfl, rfl⟩ := Prod.mk.inj (Except.ok.inj h)
      exact ⟨op, [b1], hn.symm, rfl, rfl⟩
    next b1 b2 _ hn =>
      obtain ⟨rfl, rfl⟩ := Prod.mk.inj (Except.ok.inj h)
      exact ⟨op, [b1, b2], hn.symm, rfl, rfl⟩
    next => simp at h

theorem operandBytes_decodeBytes {op : Byte} {bs : List Byte} (h : bs.length = (entry op).mode.operandBytes) :
    (decodeBytes op (bs.getD 0 0) (bs.getD 1 0)).operandBytes = bs := by
  have hle := Machine.entry_operandBytes_le op
  rw [decodeBytes, build_operandBytes op _ _ (entry_compatible op)]
  match bs with
  | [] | [b1] | [b1, b2] => simp [← h]
  | _ :: _ :: _ :: _ => simp at h; omega

/-- Only the placeholder asks anything of its byte. -/
theorem Instr.wf_of_mnemonic_ill {i : Instr} (h : i.mnemonic = .ill → isIllegalOpcode i.opcode = true) :
    i.wf = true := by
  cases i with
  | ill op => exact h rfl
  | _ => rfl

theorem wf_decodeBytes (op b1 b2 : Byte) : (decodeBytes op b1 b2).wf = true := by
  obtain ⟨hmnemonic, -⟩ := build_mnemonic op b1 b2 (entry_compatible op)
  refine Instr.wf_of_mnemonic_ill fun h => ?_
  rw [opcode_decodeBytes]
  exact (entry_illegal_iff op).1.1 (hmnemonic.symm.trans h)

/-- Settles O55: a decoded instruction has the opcode and the operand bytes it was decoded from. -/
theorem encodeOfDecode : Obligations.EncodeOfDecode := by
  intro bytes rest i h
  obtain ⟨op, bs, hlength, rfl, rfl⟩ := decode_ok h
  exact ⟨wf_decodeBytes op _ _, by rw [encode, opcode_decodeBytes, operandBytes_decodeBytes hlength]⟩

end Sys2Proof
end

section
/-! ## What an instruction can do when it goes on

Every instruction has one of seven shapes (Machine/Operands.lean). Its effect, given the operand byte `v` or
the target `w` that it read from the Bus, is one function of the state before it, and the cost of the
instruction comes on top. The frames and the invariant are read off these effects. -/

namespace Sys2Proof.Machine

/-- A shape of instruction, with the effect an instruction has in it. -/
inductive Shape where
  | inherent (f : State → State)
  | reads (o : Operand) (f : State → Byte → State)
  | stores (o : Operand) (v : State → Byte)
  | modifies (o : Operand) (f : Byte → Byte → Byte × Byte)
  | branches (d : Byte) (taken : State → Bool)
  | jumps (o : JmpOperand)
  | breaks

/-- The shape of a shift: inherent on the accumulator, a read-modify-write on memory. -/
def shiftShape (f : Byte → Bool → Byte × Bool) : ShiftOperand → Shape
  | .acc => .inherent fun s =>
      (s.setA (f s.a (s.flag .c)).1).setP (shiftStatus s.p (f s.a (s.flag .c)).1 (f s.a (s.flag .c)).2)
  | .mem o => .modifies o.operand fun v p =>
      ((f v (getFlag p .c)).1, shiftStatus p (f v (getFlag p .c)).1 (f v (getFlag p .c)).2)

/-- The shape of each instruction; `exec_eq_run` ties it to `exec`. -/
def shape : Instr → Shape
  | .lda o => .reads o.operand fun s v => (s.setA v).withZN v
  | .ldx o => .reads o.operand fun s v => (s.setX v).withZN v
  | .ldy o => .reads o.operand fun s v => (s.setY v).withZN v
  | .sta o => .stores o.operand State.a
  | .stx o => .stores o.operand State.x
  | .sty o => .stores o.operand State.y
  | .tax => .inherent fun s => (s.setX s.a).withZN s.a
  | .tay => .inherent fun s => (s.setY s.a).withZN s.a
  | .txa => .inherent fun s => (s.setA s.x).withZN s.x
  | .tya => .inherent fun s => (s.setA s.y).withZN s.y
  | .tsx => .inherent fun s => (s.setX s.sp).withZN s.sp
  | .txs => .inherent fun s => s.setSp s.x
  | .adc o => .reads o.operand State.addCore
  | .sbc o => .reads o.operand fun s v => s.addCore (v ^^^ 0xFF#8)
  | .and o => .reads o.operand fun s v => (s.setA (s.a &&& v)).withZN (s.a &&& v)
  | .ora o => .reads o.operand fun s v => (s.setA (s.a ||| v)).withZN (s.a ||| v)
  | .eor o => .reads o.operand fun s v => (s.setA (s.a ^^^ v)).withZN (s.a ^^^ v)
  | .bit o => .reads o.operand fun s v => s.setP (bitTestStatus s.p s.a v)
  | .cmp o => .reads o.operand fun s v => s.compare s.a v
  | .cpx o => .reads o.operand fun s v => s.compare s.x v
  | .cpy o => .reads o.operand fun s v => s.compare s.y v
  | .inc o => .modifies o.operand fun v p => (v + 1, withZN p (v + 1))
  | .dec o => .modifies o.operand fun v p => (v - 1, withZN p (v - 1))
  | .inx => .inherent fun s => (s.setX (s.x + 1)).withZN (s.x + 1)
  | .iny => .inherent fun s => (s.setY (s.y + 1)).withZN (s.y + 1)
  | .dex => .inherent fun s => (s.setX (s.x - 1)).withZN (s.x - 1)
  | .dey => .inherent fun s => (s.setY (s.y - 1)).withZN (s.y - 1)
  | .asl o => shiftShape shiftLeft o
  | .lsr o => shiftShape shiftRight o
  | .rol o => shiftShape rotateLeft o
  | .ror o => shiftShape rotateRight o
  | .bcc d => .branches d fun s => !s.flag .c
  | .bcs d => .branches d fun s => s.flag .c
  | .beq d => .branches d fun s => s.flag .z
  | .bne d => .branches d fun s => !s.flag .z
  | .bmi d => .branches d fun s => s.flag .n
  | .bpl d => .branches d fun s => !s.flag .n
  | .bvc d => .branches d fun s => !s.flag .v
  | .bvs d => .branches d fun s => s.flag .v
  | .jmp o => .jumps o
  | .jsr w => .inherent fun s => ((s.push (hiByte (s.pc - 1))).push (loByte (s.pc - 1))).setPc w
  | .rts => .inherent fun s => s.pop.pop.setPc (mkWord s.pop.pulled s.pulled + 1)
  | .pha => .inherent fun s => s.push s.a
  | .php => .inherent fun s => s.push (statusPushedByInstruction s.p)
  | .pla => .inherent fun s => (s.pop.setA s.pulled).withZN s.pulled
  | .plp => .inherent fun s => s.pop.setP (statusPulled s.pulled)
  | .clc => .inherent fun s => s.putFlag .c false
  | .sec => .inherent fun s => s.putFlag .c true
  | .cli => .inherent fun s => s.putFlag .i false
  | .sei => .inherent fun s => s.putFlag .i true
  | .cld => .inherent fun s => s.putFlag .d false
  | .sed => .inherent fun s => s.putFlag .d true
  | .clv => .inherent fun s => s.putFlag .v false
  | .nop => .inherent id
  | .brk => .breaks
  | .rti => .inherent returnFromInterrupt
  | .ill _ => .inherent id

/-- An instruction run as its shape says. -/
def Shape.run (i : Instr) (s : State) : Shape → Result State
  | .inherent f => Machine.inherent s i f
  | .reads o f => readOperand s i o f
  | .stores o v => storeOperand s i o (v s)
  | .modifies o f => modifyOperand s i o f
  | .branches d taken => branch s i d (taken s)
  | .jumps o => andThen (jumpTarget s o) fun target => .next ((s.setPc target).charge i 0)
  | .breaks => andThen (takeInterrupt s irqVector (brkReturn s) (brkStatus s)) fun t => .next (t.charge i 0)

/-- The meaning of an instruction is that of its shape. -/
theorem exec_eq_run (i : Instr) (s : State) : exec i s = (shape i).run i s := by
  cases i with
  | asl o | lsr o | rol o | ror o => cases o <;> rfl
  | _ => rfl

/-- The state after the effect of a shape, before the cost is charged: `v` is the operand byte read, `w` the
target of a jump or the vector. -/
def Shape.effect (s : State) (v : Byte) (w : Word) : Shape → State
  | .inherent f => f s
  | .reads _ f => f s v
  | .stores o val => s.setRam (ramAfterStore s (resolve s o).addr (val s))
  | .modifies o f => (s.setRam (ramAfterStore s (resolve s o).addr (f v s.p).1)).setP (f v s.p).2
  | .branches d taken => s.setPc (if taken s then s.pc + signExtend16 d else s.pc)
  | .jumps _ => s.setPc w
  | .breaks => ((interruptFrame s (brkReturn s) (brkStatus s)).putFlag .i true).setPc w

/-- The most a shape pays beyond the base cost (spec 40_step_and_addressing.md R103, 44_branch_jump.md R180). -/
def Shape.maxExtra : Shape → Nat
  | .inherent _ | .jumps _ | .breaks => 0
  | .reads _ _ | .stores _ _ | .modifies _ _ => 1
  | .branches _ _ => 2

@[simp] theorem State.setPc_self (s : State) : s.setPc s.pc = s := rfl

theorem pageCrossCycles_le_one (i : Instr) (crossed : Bool) : pageCrossCycles i crossed ≤ 1 := by
  unfold pageCrossCycles
  split <;> omega

/-- A write of the Bus that goes on stores in RAM alone. -/
theorem busWrite_next_eq_setRam {s t : State} {a : Word} {v : Byte} (h : busWrite s a v = .next t) :
    t = s.setRam (ramAfterStore s a v) := by
  obtain ⟨hr, rfl⟩ | ⟨hr, rfl⟩ := busWrite_next h
  · rw [ramAfterStore, if_pos hr]
  · rw [ramAfterStore, if_neg hr]
    rfl

/-- All an instruction can do when it goes on: the effect of its shape, and its cost. -/
theorem Shape.run_next {c : Shape} {i : Instr} {s t : State} (h : c.run i s = .next t) :
    ∃ v w n, n ≤ c.maxExtra ∧ t = (c.effect s v w).charge i n := by
  cases c with
  | inherent f => exact ⟨0, 0, 0, Nat.le_refl _, inherent_next h⟩
  | reads o f =>
    obtain ⟨v, -, rfl⟩ := readOperand_next h
    exact ⟨v, 0, _, pageCrossCycles_le_one .., rfl⟩
  | stores o val =>
    obtain ⟨u, hu, rfl⟩ := storeOperand_next h
    obtain rfl := busWrite_next_eq_setRam hu
    exact ⟨0, 0, _, pageCrossCycles_le_one .., rfl⟩
  | modifies o f =>
    obtain ⟨v, u, -, hu, rfl⟩ := modifyOperand_next h
    obtain rfl := busWrite_next_eq_setRam hu
    exact ⟨v, 0, _, pageCrossCycles_le_one .., rfl⟩
  | branches d taken =>
    rw [Shape.run, branch_eq] at h
    obtain rfl := Host.Outcome.next.inj h
    cases htaken : taken s
    · exact ⟨0, 0, 0, Nat.zero_le _, by simp [Shape.effect, htaken]⟩
    · refine ⟨0, 0, if page (s.pc + signExtend16 d) ≠ page s.pc then 2 else 1, ?_, by simp [Shape.effect, htaken]⟩
      rw [Shape.maxExtra]
      split <;> omega
  | jumps o =>
    obtain ⟨target, -, ht⟩ := andThen_eq_next.1 h
    exact ⟨0, target, 0, Nat.le_refl _, (Host.Outcome.next.inj ht).symm⟩
  | breaks =>
    obtain ⟨u, hu, ht⟩ := andThen_eq_next.1 h
    obtain ⟨target, rfl⟩ := takeInterrupt_next hu
    exact ⟨0, target, 0, Nat.le_refl _, (Host.Outcome.next.inj ht).symm⟩

theorem exec_next {i : Instr} {s t : State} (h : exec i s = .next t) :
    ∃ v w n, n ≤ (shape i).maxExtra ∧ t = ((shape i).effect s v w).charge i n :=
  Shape.run_next ((exec_eq_run i s).symm.trans h)

/-! ### The fields no instruction writes -/

/-- An effect writes the registers, P, PC and RAM alone. -/
theorem effect_frame {i : Instr} {s u : State} {v : Byte} {w : Word} (hu : u = (shape i).effect s v w) :
    u.params = s.params ∧ u.cycles = s.cycles ∧ u.mclk = s.mclk ∧ u.mapper = s.mapper ∧
      u.connected = s.connected ∧ u.faulted = s.faulted := by
  subst hu
  cases i with
  | asl o | lsr o | rol o | ror o => cases o <;> exact ⟨rfl, rfl, rfl, rfl, rfl, rfl⟩
  | jsr _ | brk | rti => simp [shape, Shape.effect]
  | _ => exact ⟨rfl, rfl, rfl, rfl, rfl, rfl⟩

/-! ### The registers -/

section
variable {i : Instr} (s : State) (v : Byte) (w : Word)

theorem effect_a (h : writesA i = false) : ((shape i).effect s v w).a = s.a := by
  cases i with
  | lda o | adc o | sbc o | and o | ora o | eor o | pla | txa | tya => exact Bool.noConfusion h
  | asl o | lsr o | rol o | ror o =>
    cases o with
    | acc => exact Bool.noConfusion h
    | mem o => rfl
  | jsr _ | brk | rti => simp [shape, Shape.effect]
  | _ => rfl

theorem effect_x (h : writesX i = false) : ((shape i).effect s v w).x = s.x := by
  cases i with
  | ldx o | tax | tsx | inx | dex => exact Bool.noConfusion h
  | asl o | lsr o | rol o | ror o => cases o <;> rfl
  | jsr _ | brk | rti => simp [shape, Shape.effect]
  | _ => rfl

theorem effect_y (h : writesY i = false) : ((shape i).effect s v w).y = s.y := by
  cases i with
  | ldy o | tay | iny | dey => exact Bool.noConfusion h
  | asl o | lsr o | rol o | ror o => cases o <;> rfl
  | jsr _ | brk | rti => simp [shape, Shape.effect]
  | _ => rfl

theorem effect_sp (h : writesS i = false) : ((shape i).effect s v w).sp = s.sp := by
  cases i with
  | pha | php | pla | plp | jsr _ | rts | brk | rti | txs => exact Bool.noConfusion h
  | asl o | lsr o | rol o | ror o => cases o <;> rfl
  | _ => rfl

theorem effect_pc (h : writesPc i = false) : ((shape i).effect s v w).pc = s.pc := by
  cases i with
  | bcc d | bcs d | beq d | bne d | bmi d | bpl d | bvc d | bvs d => exact Bool.noConfusion h
  | jmp o | jsr _ | rts | rti | brk => exact Bool.noConfusion h
  | asl o | lsr o | rol o | ror o => cases o <;> rfl
  | _ => rfl

end

/-- Settles O48: the cost is charged to `cycles`, and the effect writes the registers listed. -/
theorem onlyListedRegistersChange : Obligations.OnlyListedRegistersChange := by
  intro i s t h
  obtain ⟨v, w, n, -, rfl⟩ := exec_next h
  obtain ⟨hparams, -, hmclk, hmapper, hconnected, hfaulted⟩ := effect_frame (i := i) (s := s) (v := v) (w := w) rfl
  exact ⟨effect_a s v w, effect_x s v w, effect_y s v w, effect_sp s v w, effect_pc s v w,
    hmclk, hmapper, hparams, hconnected, hfaulted⟩

/-! ### The flags -/

theorem getFlag_withZN_of_notMem (p v : Byte) {f : Flag} (h : f ∉ [Flag.n, .z]) :
    getFlag (withZN p v) f = getFlag p f := by
  rw [getFlag_withZN]
  cases f <;> simp_all

theorem getFlag_addStatus_of_notMem (p a m : Byte) {f : Flag} (h : f ∉ [Flag.n, .v, .z, .c]) :
    getFlag (addStatus p a m) f = getFlag p f := by
  rw [getFlag_addStatus]
  cases f <;> simp_all

theorem getFlag_compareStatus_of_notMem (p r m : Byte) {f : Flag} (h : f ∉ [Flag.n, .z, .c]) :
    getFlag (compareStatus p r m) f = getFlag p f := by
  rw [getFlag_compareStatus]
  cases f <;> simp_all

theorem getFlag_bitTestStatus_of_notMem (p a m : Byte) {f : Flag} (h : f ∉ [Flag.n, .v, .z]) :
    getFlag (bitTestStatus p a m) f = getFlag p f := by
  rw [getFlag_bitTestStatus]
  cases f <;> simp_all

theorem getFlag_shiftStatus_of_notMem (p r : Byte) (c : Bool) {f : Flag} (h : f ∉ [Flag.n, .z, .c]) :
    getFlag (shiftStatus p r c) f = getFlag p f := by
  rw [getFlag_shiftStatus]
  cases f <;> simp_all

theorem getFlag_putFlag_of_notMem (p : Byte) {f g : Flag} (b : Bool) (h : f ∉ [g]) :
    getFlag (putFlag p g b) f = getFlag p f := by
  rw [getFlag_putFlag, if_neg (by simpa using h)]

/-- A pulled status byte has the Unused bit of a core whose Unused bit is set. -/
theorem getFlag_statusPulled_of_notMem {p : Byte} (v : Byte) (hu : getFlag p .u = true) {f : Flag}
    (h : f ∉ [Flag.n, .v, .b, .d, .i, .z, .c]) : getFlag (statusPulled v) f = getFlag p f := by
  obtain rfl : f = .u := by cases f <;> simp_all
  rw [getFlag_statusPulled, if_pos rfl, hu]

theorem effect_flag {i : Instr} {s : State} (v : Byte) (w : Word) (hu : s.flag .u = true) {f : Flag}
    (hf : f ∉ flagsWritten i.mnemonic) : getFlag ((shape i).effect s v w).p f = getFlag s.p f := by
  cases i with
  | lda o | ldx o | ldy o | tax | tay | txa | tya | tsx | pla => exact getFlag_withZN_of_notMem _ _ hf
  | and o | ora o | eor o | inc o | dec o | inx | iny | dex | dey => exact getFlag_withZN_of_notMem _ _ hf
  | adc o | sbc o => exact getFlag_addStatus_of_notMem _ _ _ hf
  | cmp o | cpx o | cpy o => exact getFlag_compareStatus_of_notMem _ _ _ hf
  | bit o => exact getFlag_bitTestStatus_of_notMem _ _ _ hf
  | asl o | lsr o | rol o | ror o => cases o <;> exact getFlag_shiftStatus_of_notMem _ _ _ hf
  | clc | sec | cli | sei | cld | sed | clv => exact getFlag_putFlag_of_notMem _ _ hf
  | plp => exact getFlag_statusPulled_of_notMem _ hu hf
  | rti =>
    rw [shape, Shape.effect, returnFromInterrupt_p]
    exact getFlag_statusPulled_of_notMem _ hu hf
  | brk =>
    rw [shape, Shape.effect, State.setPc_p, State.putFlag_p, interruptFrame_p]
    exact getFlag_putFlag_of_notMem _ _ hf
  | jsr w => simp [shape, Shape.effect]
  | _ => rfl

theorem exec_flag {i : Instr} {s t : State} (hu : s.flag .u = true) (h : exec i s = .next t) {f : Flag}
    (hf : f ∉ flagsWritten i.mnemonic) : t.flag f = s.flag f := by
  obtain ⟨v, w, n, -, rfl⟩ := exec_next h
  exact effect_flag v w hu hf

/-- Settles O47: the effect writes the flags listed, and the cost writes none. -/
theorem onlyListedFlagsChange : Obligations.OnlyListedFlagsChange :=
  fun _ _ _ hu h _ => exec_flag hu h

/-! ### The bytes of RAM -/

/-- A memory after bytes are stored at addresses, in order, each as the Bus stores it. -/
def storeBytes (m : Memory) : List (Word × Byte) → Memory
  | [] => m
  | (a, v) :: stores => storeBytes (if region a = .ram then m.write (ramIndex a) v else m) stores

/-- A byte stored on the stack, by its address. -/
theorem storeBytes_stackAddress (m : Memory) (sp v : Byte) (stores : List (Word × Byte)) :
    storeBytes m ((stackAddress sp, v) :: stores) = storeBytes (m.write (stackIndex sp) v) stores := by
  have hregion : region (stackAddress sp) = .ram := region_stack sp
  have hindex : ramIndex (stackAddress sp) = stackIndex sp := ramIndex_stack sp
  rw [storeBytes, if_pos hregion, hindex]

/-- RAM after an effect is RAM with a byte stored at each address of `bytesStored`. -/
theorem effect_ram (i : Instr) (s : State) (v : Byte) (w : Word) :
    ∃ stores : List (Word × Byte), stores.map Prod.fst = bytesStored s i ∧
      ((shape i).effect s v w).ram = storeBytes s.ram stores := by
  cases i with
  | sta o | stx o | sty o | inc o | dec o => exact ⟨[(_, _)], rfl, rfl⟩
  | asl o | lsr o | rol o | ror o =>
    cases o with
    | acc => exact ⟨[], rfl, rfl⟩
    | mem o => exact ⟨[(_, _)], rfl, rfl⟩
  | pha | php => exact ⟨[(stackAddress s.sp, _)], rfl, (storeBytes_stackAddress _ _ _ []).symm⟩
  | jsr w =>
    refine ⟨[(stackAddress s.sp, hiByte (s.pc - 1)), (stackAddress (s.sp - 1), loByte (s.pc - 1))], rfl, ?_⟩
    rw [storeBytes_stackAddress, storeBytes_stackAddress]
    rfl
  | brk =>
    refine ⟨[(stackAddress s.sp, hiByte (brkReturn s)), (stackAddress (s.sp - 1), loByte (brkReturn s)),
      (stackAddress (s.sp - 1 - 1), brkStatus s)], rfl, ?_⟩
    rw [storeBytes_stackAddress, storeBytes_stackAddress, storeBytes_stackAddress]
    simp [shape, Shape.effect, storeBytes]
  | rti => exact ⟨[], rfl, returnFromInterrupt_ram s⟩
  | _ => exact ⟨[], rfl, rfl⟩

theorem exec_ram {i : Instr} {s t : State} (h : exec i s = .next t) :
    ∃ stores : List (Word × Byte), stores.map Prod.fst = bytesStored s i ∧ t.ram = storeBytes s.ram stores := by
  obtain ⟨v, w, n, -, rfl⟩ := exec_next h
  exact effect_ram i s v w

theorem sameByte_comm {a b : Word} : sameByte a b ↔ sameByte b a := by
  simp only [sameByte, eq_comm]
  tauto

/-- Stores at addresses that name other bytes leave what the Bus reads. -/
theorem busRead_storeBytes {a : Word} {stores : List (Word × Byte)} {s : State}
    (h : ∀ b ∈ stores.map Prod.fst, ¬ sameByte a b) :
    busRead (s.setRam (storeBytes s.ram stores)) a = busRead s a := by
  induction stores generalizing s with
  | nil => rfl
  | cons c stores ih =>
    obtain ⟨b, v⟩ := c
    simp only [List.map_cons, List.mem_cons, forall_eq_or_imp] at h
    obtain ⟨hb, hrest⟩ := h
    rw [storeBytes]
    split
    next hram =>
      have hother : ¬ sameByte b a := fun hs => hb (sameByte_comm.1 hs)
      exact (ih (s := s.setRam (s.ram.write (ramIndex b) v)) hrest).trans
        (busRead_store_of_not_sameByte v hram hother)
    next => exact ih hrest

/-- Settles O49: what the Bus reads depends on the Mapper, which stays, and on RAM, where bytes are stored at
the addresses of `bytesStored`. -/
theorem onlyStoredBytesChange : Obligations.OnlyStoredBytesChange := by
  intro i s t h a ha
  obtain ⟨stores, haddr, hram⟩ := exec_ram h
  obtain ⟨-, -, -, -, -, -, hmapper, -⟩ := onlyListedRegistersChange i s t h
  calc busRead t a = busRead (s.setRam (storeBytes s.ram stores)) a :=
      busRead_congr (s := s.setRam _) hram hmapper a
    _ = busRead s a := busRead_storeBytes (haddr ▸ ha)

end Sys2Proof.Machine
end

section
/-! ## The cost of an instruction and the clocks (spec 40_step_and_addressing.md R100, R103) -/

namespace Sys2Proof.Machine

/-! ### Costs -/

/-- The base costs of the table: 2 to 7 cycles, or ILLEGAL_CYCLES (spec 30_encoding.md R85, R87). -/
theorem entry_cost_cases :
    ∀ op : Byte, (entry op).cost = .illegalCycles ∨ ∃ n ∈ [2, 3, 4, 5, 6, 7], (entry op).cost = .fixed n := by
  decide

theorem one_le_illegalCycles (ps : Params) (op : Byte) : 1 ≤ illegalCycles ps op := by
  unfold illegalCycles
  split <;> omega

/-- The base cost of an instruction is 2 to 7 cycles, or that of an illegal byte. -/
theorem baseCycles_cases (ps : Params) (i : Instr) :
    ((entry i.opcode).cost = .illegalCycles ∧ baseCycles ps i = illegalCycles ps i.opcode) ∨
      (2 ≤ baseCycles ps i ∧ baseCycles ps i ≤ 7) := by
  obtain h | ⟨n, hn, h⟩ := entry_cost_cases i.opcode
  · exact .inl ⟨h, by simp only [baseCycles, h]⟩
  · simp only [List.mem_cons, List.not_mem_nil, or_false] at hn
    simp only [baseCycles, h]
    omega

theorem one_le_baseCycles (ps : Params) (i : Instr) : 1 ≤ baseCycles ps i := by
  obtain ⟨-, h⟩ | ⟨h, -⟩ := baseCycles_cases ps i
  · exact h ▸ one_le_illegalCycles ps i.opcode
  · omega

theorem Shape.maxExtra_le_two (c : Shape) : c.maxExtra ≤ 2 := by
  unfold maxExtra
  split <;> omega

/-- An illegal byte pays no extra cycles. -/
theorem maxExtra_of_mnemonic_ill {i : Instr} (h : i.mnemonic = .ill) : (shape i).maxExtra = 0 := by
  cases i with
  | ill op => rfl
  | _ => exact Mnemonic.noConfusion h

theorem cost_le_nine {ps : Params} {i : Instr} (hps : illegalCostsAtMostNine ps) (hwf : i.wf = true) :
    baseCycles ps i + (shape i).maxExtra ≤ 9 := by
  obtain ⟨hcost, hbase⟩ | ⟨-, hle⟩ := baseCycles_cases ps i
  · have hillegal := (entry_illegal_iff i.opcode).2.1 hcost
    have hentry := (entry_illegal_iff i.opcode).1.2 hillegal
    obtain ⟨hmnemonic, -⟩ := tableAgrees i hwf
    rw [hbase, maxExtra_of_mnemonic_ill (hmnemonic.symm.trans hentry)]
    exact hps _ hillegal
  · have := (shape i).maxExtra_le_two
    omega

/-! ### What a step of the CPU and a clock can do -/

theorem exec_cycles {i : Instr} {s t : State} (h : exec i s = .next t) :
    ∃ n ≤ (shape i).maxExtra, t.cycles = s.cycles + baseCycles s.params i + n := by
  obtain ⟨v, w, n, hn, rfl⟩ := exec_next h
  obtain ⟨hparams, hcycles, -⟩ := effect_frame (i := i) (s := s) (v := v) (w := w) rfl
  exact ⟨n, hn, by rw [State.charge_cycles, hcycles, hparams]⟩

/-- No instruction writes the Bus's counter, the Mapper, the parameters or the marks. -/
theorem exec_frame {i : Instr} {s t : State} (h : exec i s = .next t) :
    t.mclk = s.mclk ∧ t.mapper = s.mapper ∧ t.params = s.params ∧ t.connected = s.connected ∧
      t.faulted = s.faulted := by
  obtain ⟨-, -, -, -, -, hframe⟩ := onlyListedRegistersChange i s t h
  exact hframe

/-- A step of the CPU is the meaning of a well-formed instruction with PC moved. -/
theorem cpuStep_next_wf {s t : State} (h : cpuStep s = .next t) :
    ∃ i w, i.wf = true ∧ exec i (s.setPc w) = .next t := by
  obtain ⟨w, op, b1, b2, h⟩ := cpuStep_next h
  exact ⟨_, w, wf_decodeBytes op b1 b2, h⟩

/-- All a CPU clock can do when it goes on. -/
theorem cpuClock_next {s t : State} (h : cpuClock s = .next t) :
    (s.cycles ≠ 0 ∧ t = s.setCycles (s.cycles - 1)) ∨
      (s.cycles = 0 ∧ ∃ u, cpuStep s = .next u ∧ t = u.setCycles (u.cycles - 1)) := by
  by_cases hc : s.cycles = 0
  · obtain ⟨u, hu, ht⟩ := andThen_eq_next.1 ((cpuClock_due hc).symm.trans h)
    exact .inr ⟨hc, u, hu, (Host.Outcome.next.inj ht).symm⟩
  · exact .inl ⟨hc, (Host.Outcome.next.inj ((cpuClock_owed hc).symm.trans h)).symm⟩

/-- All a master tick can do when it goes on. -/
theorem clock_next {s t : State} (h : clock s = .next t) :
    running s = true ∧ (t = s.setMclk (s.mclk + 1) ∨ cpuClock (s.setMclk (s.mclk + 1)) = .next t) := by
  obtain ⟨hf, hc, hm, hx⟩ := whenRunning_next h
  refine ⟨running_iff.2 ⟨hf, hc, hm⟩, ?_⟩
  split at hx
  · exact .inr hx
  · exact .inl (Host.Outcome.next.inj hx).symm

theorem cpuStep_frame {s t : State} (h : cpuStep s = .next t) :
    t.mclk = s.mclk ∧ t.mapper = s.mapper ∧ t.params = s.params ∧ t.connected = s.connected ∧
      t.faulted = s.faulted := by
  obtain ⟨i, w, -, hi⟩ := cpuStep_next_wf h
  have hframe := exec_frame hi
  exact hframe

theorem cpuClock_frame {s t : State} (h : cpuClock s = .next t) :
    t.mclk = s.mclk ∧ t.mapper = s.mapper ∧ t.params = s.params ∧ t.connected = s.connected ∧
      t.faulted = s.faulted := by
  obtain ⟨-, rfl⟩ | ⟨-, u, hu, rfl⟩ := cpuClock_next h
  · exact ⟨rfl, rfl, rfl, rfl, rfl⟩
  · have hframe := cpuStep_frame hu
    exact hframe

/-- A master tick advances the counter by one and keeps the Mapper, the parameters and the marks. -/
theorem clock_frame {s t : State} (h : clock s = .next t) :
    t.mclk = s.mclk + 1 ∧ t.mapper = s.mapper ∧ t.params = s.params ∧ t.connected = s.connected ∧
      t.faulted = s.faulted := by
  obtain ⟨-, rfl | hcpu⟩ := clock_next h
  · exact ⟨rfl, rfl, rfl, rfl, rfl⟩
  · exact cpuClock_frame hcpu

/-- A step of the CPU adds at least one cycle. -/
theorem cpuStep_cycles_pos {s t : State} (h : cpuStep s = .next t) : 1 ≤ t.cycles := by
  obtain ⟨i, w, -, hi⟩ := cpuStep_next_wf h
  obtain ⟨n, -, hn⟩ := exec_cycles hi
  have := one_le_baseCycles (s.setPc w).params i
  omega

/-- From no cycles owed a step of the CPU leaves at most nine. -/
theorem cpuStep_cycles_le {s t : State} (hps : illegalCostsAtMostNine s.params) (hc : s.cycles = 0)
    (h : cpuStep s = .next t) : t.cycles ≤ 9 := by
  obtain ⟨i, w, hwf, hi⟩ := cpuStep_next_wf h
  obtain ⟨n, hle, hn⟩ := exec_cycles hi
  have hcost := cost_le_nine hps hwf
  rw [State.setPc_cycles, State.setPc_params, hc] at hn
  omega

theorem cpuClock_cycles_le {s t : State} (hps : illegalCostsAtMostNine s.params) (hc : s.cycles ≤ 8)
    (h : cpuClock s = .next t) : t.cycles ≤ 8 := by
  obtain ⟨-, rfl⟩ | ⟨hzero, u, hu, rfl⟩ := cpuClock_next h
  · rw [State.setCycles_cycles]
    omega
  · have := cpuStep_cycles_le hps hzero hu
    rw [State.setCycles_cycles]
    omega

theorem clock_cycles_le {s t : State} (hps : illegalCostsAtMostNine s.params) (hc : s.cycles ≤ 8)
    (h : clock s = .next t) : t.cycles ≤ 8 := by
  obtain ⟨-, rfl | hcpu⟩ := clock_next h
  · exact hc
  · exact cpuClock_cycles_le (s := s.setMclk (s.mclk + 1)) hps hc hcpu

/-- Settles O43: a clock is a decrement, or a step and a decrement; a step leaves its cost, of which the
clocks after it count down the rest. -/
theorem instructionOccupiesItsCost : Obligations.InstructionOccupiesItsCost := by
  refine ⟨fun s h => cpuClock_owed (by omega), fun s h => cpuClock_due h,
    fun s t hc h => ⟨cpuStep_cycles_pos h, fun k hk hle => ?clocks⟩⟩
  case clocks =>
    have hfirst : cpuClocks 1 s = .next { t with cycles := t.cycles - 1 } := by
      rw [cpuClocks_one, cpuClock_due hc, h, andThen_next]
      rfl
    obtain ⟨j, rfl⟩ := Nat.exists_eq_add_of_le hk
    rw [cpuClocks_add_of_next hfirst, cpuClocks_of_le_cycles (by dsimp only; omega), Nat.sub_sub]

/-- Settles O44: the phase decides which of its two cases a tick is; neither writes the counter again. -/
theorem masterClockDividesByThree : Obligations.MasterClockDividesByThree := by
  refine ⟨fun s hr => ⟨fun h => ?count, clock_of_dvd hr⟩, fun s t r h => ?ticks⟩
  case count =>
    rw [hostOp, clock_of_not_dvd hr h, andThen_next]
    rfl
  case ticks =>
    obtain ⟨u, hu, ht⟩ := andThen_eq_next.1 h
    obtain ⟨rfl, rfl⟩ := Prod.mk.inj (Host.Outcome.next.inj ht)
    obtain ⟨hmclk, -⟩ := clock_frame hu
    exact ⟨hmclk, by rw [hmclk]⟩

/-! ### A step as a run of master ticks (log 1) -/

/-- On a core that does not run, whatever needs a running core is refused, for a reason that the marks and the
slot decide. -/
theorem whenRunning_of_not_running {s : State} (h : running s = false) :
    ∃ r, ∀ t : State, t.faulted = s.faulted → t.connected = s.connected → t.mapper = s.mapper →
      ∀ {α : Type} (x : Result α), whenRunning t x = .refused r := by
  unfold running at h
  unfold whenRunning
  cases hf : s.faulted with
  | true => exact ⟨.coreFaulted, fun t ht _ _ _ x => by simp [ht]⟩
  | false =>
    cases hc : s.connected with
    | false => exact ⟨.notPowered, fun t ht ht' _ _ x => by simp [ht, ht']⟩
    | true =>
      have hm : s.mapper = none := by simpa [hf, hc] using h
      exact ⟨.noMapper, fun t ht ht' ht'' _ x => by simp [ht, ht', ht'', hm]⟩

/-- The ticks up to and including the next CPU clock. -/
theorem ticks_to_cpuClock {s : State} (h : running s = true) :
    ticks (3 - s.mclk % 3) s = cpuClock (s.setMclk (3 * (s.mclk / 3 + 1))) := by
  obtain ⟨k, hk⟩ : ∃ k, 3 - s.mclk % 3 = k + 1 := ⟨2 - s.mclk % 3, by omega⟩
  have hmclk : s.mclk + k + 1 = 3 * (s.mclk / 3 + 1) := by omega
  have hr : running (s.setMclk (s.mclk + k)) = true := by rwa [running_setMclk]
  rw [hk, ticks_add_of_next (ticks_before_cpuClock h (k := k) (by omega)), ticks_one,
    clock_of_dvd hr (by rw [State.setMclk_mclk]; omega), State.setMclk_mclk, hmclk]
  rfl

/-- A step depends on the cycles owed through the CPU clock at which they are counted down. -/
theorem step_countdown {s : State} {c : Nat} (hc : s.cycles = c + 1) :
    step ((s.setMclk (3 * (s.mclk / 3 + 1))).setCycles c) = step s := by
  have hcount : 3 * (3 * (s.mclk / 3 + 1) / 3 + c + 1) = 3 * (s.mclk / 3 + s.cycles + 1) := by omega
  unfold step State.atNextFetch
  rw [State.setCycles_cycles, State.setCycles_mclk, State.setMclk_mclk, hcount]
  rfl

/-- A step of a running core that owes no cycles is the next CPU clock. -/
theorem step_of_no_cycles {s : State} (h : running s = true) (hc : s.cycles = 0) :
    step s = cpuClock (s.setMclk (3 * (s.mclk / 3 + 1))) := by
  obtain ⟨hf, hconn, hm⟩ := running_iff.1 h
  have hself : s.setCycles 0 = s := by rw [← hc]; rfl
  have hdue : (s.setMclk (3 * (s.mclk / 3 + 1))).cycles = 0 := hc
  rw [step_eq hf hconn hm, cpuClock_due hdue, hself, hc, Nat.add_zero]

/-- A step of a running core is the ticks up to the CPU clock that finds no cycles owed: one CPU clock for
each cycle owed, and one more. -/
theorem step_eq_ticks_of_running {s : State} (h : running s = true) :
    step s = ticks (3 * (s.mclk / 3 + s.cycles + 1) - s.mclk) s := by
  generalize hc : s.cycles = c
  induction c generalizing s with
  | zero =>
    have hcount : 3 * (s.mclk / 3 + 0 + 1) - s.mclk = 3 - s.mclk % 3 := by omega
    rw [hcount, step_of_no_cycles h hc, ticks_to_cpuClock h]
  | succ c ih =>
    have hclock : ticks (3 - s.mclk % 3) s = .next ((s.setMclk (3 * (s.mclk / 3 + 1))).setCycles c) := by
      rw [ticks_to_cpuClock h, cpuClock_owed (by rw [State.setMclk_cycles, hc]; omega), State.setMclk_cycles, hc,
        Nat.add_sub_cancel]
    have hcount : 3 * (s.mclk / 3 + (c + 1) + 1) - s.mclk =
        (3 - s.mclk % 3) + (3 * (3 * (s.mclk / 3 + 1) / 3 + c + 1) - 3 * (s.mclk / 3 + 1)) := by omega
    rw [hcount, ticks_add_of_next hclock, ← step_countdown hc]
    exact ih (s := (s.setMclk (3 * (s.mclk / 3 + 1))).setCycles c) h rfl

/-- Settles O45: on a running core by counting down the cycles owed, one CPU clock at a time; on any other the
first tick is refused as the step is. -/
theorem stepIsTheTicksUpToTheNextInstruction : Obligations.StepIsTheTicksUpToTheNextInstruction := by
  intro s
  cases h : running s with
  | true => exact step_eq_ticks_of_running h
  | false =>
    obtain ⟨r, hrefused⟩ := whenRunning_of_not_running h
    have hfirst : clock s = .refused r := hrefused s rfl rfl rfl _
    have hstep : clock s.atNextFetch = .refused r := hrefused s.atNextFetch rfl rfl rfl _
    obtain ⟨k, hk⟩ : ∃ k, 3 * (s.mclk / 3 + s.cycles + 1) - s.mclk = k + 1 :=
      ⟨3 * (s.mclk / 3 + s.cycles + 1) - s.mclk - 1, by omega⟩
    rw [step, hstep, hk, ticks, hfirst, andThen_refused]

end Sys2Proof.Machine
end

section
/-! ## The invariant of the core, instruction by instruction (spec 10_state.md sections 3, 5 and 6) -/

namespace Sys2Proof.Machine

/-- The invariant of a state with RAM kept in form, the Mapper and the connection of another, and its Unused
bit where that was set. -/
theorem Inv.of_ram {s t : State} (h : Inv s) (hwf : t.ram.wf = true) (hsize : t.ram.below 2048 = true)
    (hmapper : t.mapper = s.mapper) (hconnected : t.connected = s.connected)
    (hunused : s.flag .u = true → t.flag .u = true) : Inv t where
  ram_wf := hwf
  ram_size := hsize
  mapper_wf := hmapper ▸ h.mapper_wf
  mapper_of_connected := hmapper ▸ hconnected ▸ h.mapper_of_connected
  unused_set hc := hunused (h.unused_set (hconnected ▸ hc))

/-- The invariant says nothing of A, X, Y, S, PC and the counters. -/
theorem Inv.of_eq {s t : State} (h : Inv s) (hram : t.ram = s.ram) (hmapper : t.mapper = s.mapper)
    (hconnected : t.connected = s.connected) (hp : t.p = s.p) : Inv t :=
  h.of_ram (hram ▸ h.ram_wf) (hram ▸ h.ram_size) hmapper hconnected fun hu => by rwa [State.flag, hp]

/-- Stores of the Bus keep the form and the size of RAM. -/
theorem storeBytes_wf_below {m : Memory} (stores : List (Word × Byte)) (hwf : m.wf = true)
    (hsize : m.below 2048 = true) :
    (storeBytes m stores).wf = true ∧ (storeBytes m stores).below 2048 = true := by
  induction stores generalizing m with
  | nil => exact ⟨hwf, hsize⟩
  | cons c stores ih =>
    obtain ⟨a, v⟩ := c
    rw [storeBytes]
    split
    · exact ih (Memory.wf_write _ v hwf) (Memory.below_write v (ramIndex_lt a) hsize)
    · exact ih hwf hsize

theorem unused_notMem_flagsWritten (m : Mnemonic) : Flag.u ∉ flagsWritten m := by
  cases m <;> decide

theorem exec_inv {i : Instr} {s t : State} (hinv : Inv s) (h : exec i s = .next t) : Inv t := by
  obtain ⟨stores, -, hram⟩ := exec_ram h
  obtain ⟨-, hmapper, -, hconnected, -⟩ := exec_frame h
  obtain ⟨hwf, hsize⟩ := storeBytes_wf_below stores hinv.ram_wf hinv.ram_size
  exact hinv.of_ram (hram ▸ hwf) (hram ▸ hsize) hmapper hconnected fun hu =>
    (exec_flag hu h (unused_notMem_flagsWritten _)).trans hu

theorem cpuStep_inv {s t : State} (hinv : Inv s) (h : cpuStep s = .next t) : Inv t := by
  obtain ⟨i, w, -, hi⟩ := cpuStep_next_wf h
  exact exec_inv (hinv.of_eq (t := s.setPc w) rfl rfl rfl rfl) hi

theorem cpuClock_inv {s t : State} (hinv : Inv s) (h : cpuClock s = .next t) : Inv t := by
  obtain ⟨-, rfl⟩ | ⟨-, u, hu, rfl⟩ := cpuClock_next h
  · exact hinv.of_eq rfl rfl rfl rfl
  · exact (cpuStep_inv hinv hu).of_eq rfl rfl rfl rfl

theorem clock_inv {s t : State} (hinv : Inv s) (h : clock s = .next t) : Inv t := by
  have hticked : Inv (s.setMclk (s.mclk + 1)) := hinv.of_eq rfl rfl rfl rfl
  obtain ⟨-, rfl | hcpu⟩ := clock_next h
  · exact hticked
  · exact cpuClock_inv hticked hcpu

/-- Settles O52: a step is a master tick from a state that differs in its counters alone; an instruction keeps
the Mapper and the connection, stores bytes in RAM and does not list the Unused bit. -/
theorem stepKeepsTheInvariant : Obligations.StepKeepsTheInvariant :=
  fun s _ hinv h => clock_inv (hinv.of_eq (t := s.atNextFetch) rfl rfl rfl rfl) h

end Sys2Proof.Machine
end

section
/-! ## What a host operation can do when it goes on (spec 60_exceptions.md R250) -/

namespace Sys2Proof.Machine

/-- The state after the reset sequence, with the target its vector gave (spec 70_reset_and_hazards.md R261,
R262). -/
def State.resetTo (s : State) (target : Word) : State :=
  { s with pc := target, p := 0x20#8, sp := 0xFD#8, a := 0x00#8, x := 0x00#8, y := 0x00#8, cycles := 8, mclk := 0 }

theorem busReset_next {s t : State} (h : busReset s = .next t) : ∃ target, t = s.resetTo target := by
  obtain ⟨u, hu, ht⟩ := andThen_eq_next.1 h
  obtain ⟨target, -, hu⟩ := andThen_eq_next.1 hu
  obtain rfl := Host.Outcome.next.inj hu
  exact ⟨target, (Host.Outcome.next.inj ht).symm⟩

/-- The state after a taken interrupt input, with the target its vector gave (spec 60_exceptions.md R222,
R223). -/
def State.interruptedTo (s : State) (target : Word) (cycles : Nat) : State :=
  { s with
    ram := framePushed s s.pc (statusPushedByInterrupt s.p)
    sp := s.sp - 3
    p := Machine.putFlag s.p .i true
    pc := target
    cycles := cycles }

/-- All an interrupt input can do when it is not masked. -/
theorem takeInterrupt_next_interruptedTo {s t : State} {vector : Word} {cycles : Nat}
    (h : (andThen (takeInterrupt s vector s.pc (statusPushedByInterrupt s.p)) fun t =>
      .next (t.setCycles cycles)) = .next t) : ∃ target, t = s.interruptedTo target cycles := by
  obtain ⟨u, hu, ht⟩ := andThen_eq_next.1 h
  obtain ⟨target, rfl⟩ := takeInterrupt_next hu
  rw [interruptFrame_eq] at ht
  exact ⟨target, (Host.Outcome.next.inj ht).symm⟩

theorem irq_next {s t : State} (h : irq s = .next t) : t = s ∨ ∃ target, t = s.interruptedTo target 7 := by
  unfold irq at h
  split at h
  case isTrue => exact .inl (Host.Outcome.next.inj h).symm
  case isFalse => exact .inr (takeInterrupt_next_interruptedTo h)

/-- All a host operation can do to the state when it goes on. -/
inductive HostEffect (s : State) : HostOp → State → Prop
  | unchanged {op : HostOp} : HostEffect s op s
  | inserted {c : Cartridge} (hslot : s.mapper = none) (hconnected : s.connected = false) (hwf : c.wf = true)
      (hprogram : c.prgBanks ≠ 0) : HostEffect s (.insert c) (s.setMapper (some (.direct c)))
  | powered {target : Word} (hslot : s.mapper.isSome = true) :
      HostEffect s .power ((s.setConnected true).resetTo target)
  | reset {target : Word} (hslot : s.mapper.isSome = true) : HostEffect s .reset (s.resetTo target)
  | ticked {t : State} (hclock : clock s = .next t) : HostEffect s .clock t
  | irqTaken {target : Word} : HostEffect s .irq (s.interruptedTo target 7)
  | nmiTaken {target : Word} : HostEffect s .nmi (s.interruptedTo target 8)
  | stored {a : Word} {v : Byte} : HostEffect s (.write a v) (s.setRam (ramAfterStore s a v))
  | drawn {a : Word} {v : Byte} {c : Cartridge} (hslot : s.mapper = some (.direct c)) (hram : c.chrBanks = 0)
      (ha : a.toNat ≤ 0x1FFF) :
      HostEffect s (.graphicsWrite a v) (s.setMapper (some (.direct { c with chr := c.chr.write a.toNat v })))

/-- `insert` goes on for a well-formed record with the program bank its Mapper needs, or changes nothing. -/
theorem insertCartridge_next {c : Cartridge} {s t : State} {ok : Bool} (h : insertCartridge c s = .next (t, ok)) :
    t = s ∨ s.mapper = none ∧ s.connected = false ∧ c.wf = true ∧ c.prgBanks ≠ 0 ∧
      t = s.setMapper (some (.direct c)) := by
  unfold insertCartridge at h
  split at h
  · simp at h
  next hfree =>
    split at h
    · simp at h
    next hrecord =>
      split at h
      next m hmake =>
        obtain ⟨variant, hvariant, rfl⟩ := Option.map_eq_some_iff.1 hmake
        cases variant
        obtain ⟨rfl, -⟩ := Prod.mk.inj (Host.Outcome.next.inj h)
        simp only [Bool.or_eq_true, Option.isSome_iff_ne_none, not_or, not_not, Bool.not_eq_true] at hfree
        simp only [Cartridge.lacksProgram, hvariant, Bool.or_eq_true, not_or] at hrecord
        obtain ⟨hslot, hconnected⟩ := hfree
        obtain ⟨hwf, hprogram⟩ := hrecord
        exact .inr ⟨hslot, hconnected, by simpa using hwf, by simpa using hprogram, rfl⟩
      next =>
        obtain ⟨rfl, -⟩ := Prod.mk.inj (Host.Outcome.next.inj h)
        exact .inl rfl

theorem graphicsWrite_next {m m' : Mapper} {a : Word} {v : Byte} (h : m.graphicsWrite a v = .next m') :
    m' = m ∨ ∃ c, m = .direct c ∧ c.chrBanks = 0 ∧ a.toNat ≤ 0x1FFF ∧
      m' = .direct { c with chr := c.chr.write a.toNat v } := by
  cases m with
  | direct c =>
  rw [Mapper.graphicsWrite] at h
  split at h
  · next ha =>
    split at h
    · next hram => exact .inr ⟨c, rfl, hram, ha, (Host.Outcome.next.inj h).symm⟩
    · exact .inl (Host.Outcome.next.inj h).symm
  · simp at h

theorem withMapper_next {α : Type} {s : State} {f : Mapper → Result α} {v : α} (h : withMapper s f = .next v) :
    ∃ m, s.mapper = some m ∧ f m = .next v := by
  unfold withMapper at h
  split at h
  · simp at h
  next m hm => exact ⟨m, hm, h⟩

/-- The state that an operation with a result leaves is the state that its computation gives. -/
theorem andThen_pair_next {α β : Type} {x : Result α} {f : α → State} {g : α → β} {t : State} {r : β}
    (h : (andThen x fun v => .next (f v, g v)) = .next (t, r)) : ∃ v, x = .next v ∧ t = f v := by
  obtain ⟨v, hv, ht⟩ := andThen_eq_next.1 h
  obtain ⟨rfl, -⟩ := Prod.mk.inj (Host.Outcome.next.inj ht)
  exact ⟨v, hv, rfl⟩

theorem hostOp_next {op : HostOp} {s t : State} {r : HostResult} (h : hostOp op s = .next (t, r)) :
    HostEffect s op t := by
  cases op with
  | insert c =>
    obtain ⟨-, h⟩ := whenNotFaulted_next h
    obtain ⟨⟨t, ok⟩, hu, rfl⟩ := andThen_pair_next h
    obtain rfl | ⟨hslot, hconnected, hwf, hprogram, rfl⟩ := insertCartridge_next hu
    · exact .unchanged
    · exact .inserted hslot hconnected hwf hprogram
  | power =>
    obtain ⟨-, h⟩ := whenNotFaulted_next h
    obtain ⟨t, hu, rfl⟩ := andThen_pair_next h
    unfold power at hu
    split at hu
    · simp at hu
    next hslot =>
      obtain ⟨target, rfl⟩ := busReset_next hu
      exact .powered (by simpa [Option.isSome_iff_ne_none] using hslot)
  | reset =>
    obtain ⟨-, -, hslot, h⟩ := whenRunning_next h
    obtain ⟨t, hu, rfl⟩ := andThen_pair_next h
    obtain ⟨target, rfl⟩ := busReset_next hu
    exact .reset hslot
  | clock =>
    obtain ⟨t, hu, rfl⟩ := andThen_pair_next h
    exact .ticked hu
  | irq =>
    obtain ⟨-, -, -, h⟩ := whenRunning_next h
    obtain ⟨t, hu, rfl⟩ := andThen_pair_next h
    obtain rfl | ⟨target, rfl⟩ := irq_next hu
    · exact .unchanged
    · exact .irqTaken
  | nmi =>
    obtain ⟨-, -, -, h⟩ := whenRunning_next h
    obtain ⟨t, hu, rfl⟩ := andThen_pair_next h
    obtain ⟨target, rfl⟩ := takeInterrupt_next_interruptedTo hu
    exact .nmiTaken
  | read a readOnly =>
    obtain ⟨-, h⟩ := whenNotFaulted_next h
    obtain ⟨v, -, rfl⟩ := andThen_pair_next h
    exact .unchanged
  | read16 a readOnly =>
    obtain ⟨-, h⟩ := whenNotFaulted_next h
    obtain ⟨-, h⟩ := whenReadable_next h
    obtain ⟨-, h⟩ := whenReadable_next h
    obtain ⟨v, -, rfl⟩ := andThen_pair_next h
    exact .unchanged
  | write a v =>
    obtain ⟨-, h⟩ := whenNotFaulted_next h
    obtain ⟨t, hu, rfl⟩ := andThen_pair_next h
    exact busWrite_next_eq_setRam hu ▸ .stored
  | registers =>
    obtain ⟨-, -, -, h⟩ := whenRunning_next h
    obtain ⟨rfl, -⟩ := Prod.mk.inj (Host.Outcome.next.inj h)
    exact .unchanged
  | disassembly =>
    obtain ⟨-, -, -, h⟩ := whenRunning_next h
    obtain ⟨v, -, rfl⟩ := andThen_pair_next h
    exact .unchanged
  | graphicsRead a =>
    obtain ⟨-, h⟩ := whenNotFaulted_next h
    obtain ⟨m, -, h⟩ := withMapper_next h
    obtain ⟨v, -, rfl⟩ := andThen_pair_next h
    exact .unchanged
  | graphicsWrite a v =>
    obtain ⟨-, h⟩ := whenNotFaulted_next h
    obtain ⟨m, hslot, h⟩ := withMapper_next h
    obtain ⟨m', hm, rfl⟩ := andThen_pair_next h
    obtain rfl | ⟨c, rfl, hram, ha, rfl⟩ := graphicsWrite_next hm
    · exact hslot ▸ .unchanged
    · exact .drawn hslot hram ha

end Sys2Proof.Machine
end

section
/-! ## The invariants of the host interface (spec 60_exceptions.md sections 8 and 16) -/

namespace Sys2Proof.Machine

/-- Settles O36: no effect touches the parameters or the mark; the slot is written when it is empty, and in its
graphics RAM. -/
theorem installedCartridgeIsImmutable : Obligations.InstalledCartridgeIsImmutable := by
  intro op s t r h
  cases hostOp_next h with
  | unchanged | irqTaken | nmiTaken | stored => exact ⟨rfl, rfl, id, fun c hc => ⟨c.chr, hc, .inl rfl⟩⟩
  | powered hslot => exact ⟨rfl, rfl, fun _ => rfl, fun c hc => ⟨c.chr, hc, .inl rfl⟩⟩
  | reset hslot => exact ⟨rfl, rfl, id, fun c hc => ⟨c.chr, hc, .inl rfl⟩⟩
  | inserted hslot hconnected hwf hprogram =>
    exact ⟨rfl, rfl, id, fun c hc => absurd (hslot.symm.trans hc) (by simp)⟩
  | ticked hclock =>
    obtain ⟨-, hmapper, hparams, hconnected, hfaulted⟩ := clock_frame hclock
    exact ⟨hparams, hfaulted, fun hc => hconnected.trans hc, fun c hc => ⟨c.chr, hmapper.trans hc, .inl rfl⟩⟩
  | @drawn a v c hslot hram ha =>
    refine ⟨rfl, rfl, id, fun c' hc' => ?_⟩
    obtain rfl : c = c' := by simpa using hslot.symm.trans hc'
    exact ⟨_, rfl, .inr ⟨hram, a, v, rfl⟩⟩

/-- Settles O46: an operation sets `cycles` to 7 or 8, leaves it, or is a tick; a step starts from none owed. -/
theorem cyclesStayAtMostEight : Obligations.CyclesStayAtMostEight := by
  refine ⟨fun op s t r hps hc h => ?operation, fun s t hps h =>
    clock_cycles_le (s := s.atNextFetch) hps (Nat.zero_le 8) h⟩
  cases hostOp_next h with
  | unchanged | inserted | stored | drawn => exact hc
  | powered | reset | nmiTaken => exact Nat.le_refl 8
  | irqTaken => exact Nat.le_succ 7
  | ticked hclock => exact clock_cycles_le hps hc hclock

/-! ### The invariant -/

theorem framePushed_wf_below {s : State} (hinv : Inv s) (returnPc : Word) (status : Byte) :
    (framePushed s returnPc status).wf = true ∧ (framePushed s returnPc status).below 2048 = true :=
  ⟨Memory.wf_write _ _ (Memory.wf_write _ _ (Memory.wf_write _ _ hinv.ram_wf)),
    Memory.below_write _ (stackIndex_lt _)
      (Memory.below_write _ (stackIndex_lt _) (Memory.below_write _ (stackIndex_lt _) hinv.ram_size))⟩

theorem interruptedTo_inv {s : State} (hinv : Inv s) (target : Word) (cycles : Nat) :
    Inv (s.interruptedTo target cycles) := by
  obtain ⟨hwf, hsize⟩ := framePushed_wf_below hinv s.pc (statusPushedByInterrupt s.p)
  exact hinv.of_ram hwf hsize rfl rfl fun hu => (getFlag_putFlag s.p .i .u true).trans hu

/-- The invariant holds again when another Mapper with a well-formed record is put in the slot. -/
theorem setMapper_inv {s : State} {m : Mapper} (hinv : Inv s) (hm : m.wf = true) : Inv (s.setMapper (some m)) where
  ram_wf := hinv.ram_wf
  ram_size := hinv.ram_size
  mapper_wf _ h := Option.some.inj h ▸ hm
  mapper_of_connected _ := rfl
  unused_set := hinv.unused_set

theorem unused_of_reset : getFlag 0x20#8 .u = true := by decide

/-- The reset sequence sets the Unused bit. -/
theorem resetTo_inv {s : State} (hinv : Inv s) (hslot : s.mapper.isSome = true) (target : Word) (b : Bool) :
    Inv ((s.setConnected b).resetTo target) where
  ram_wf := hinv.ram_wf
  ram_size := hinv.ram_size
  mapper_wf := hinv.mapper_wf
  mapper_of_connected _ := hslot
  unused_set _ := unused_of_reset

/-- A byte drawn in graphics RAM keeps the record well-formed. -/
theorem drawn_wf {c : Cartridge} {a : Word} (v : Byte) (h : (Mapper.direct c).wf = true) (hram : c.chrBanks = 0)
    (ha : a.toNat ≤ 0x1FFF) : (Mapper.direct { c with chr := c.chr.write a.toNat v }).wf = true := by
  simp only [Mapper.wf, Mapper.cartridge, Cartridge.wf, Cartridge.chrSize, hram, Bool.and_eq_true] at h ⊢
  obtain ⟨⟨⟨hprg, hchr⟩, hsize⟩, hbanks⟩ := h
  exact ⟨⟨⟨hprg, Memory.wf_write _ v hchr⟩, Memory.below_write v (Nat.lt_succ_of_le ha) hsize⟩, hbanks⟩

theorem HostEffect.inv {s t : State} {op : HostOp} (h : HostEffect s op t) (hinv : Inv s) : Inv t := by
  cases h with
  | unchanged => exact hinv
  | inserted hslot hconnected hwf hprogram =>
    exact setMapper_inv hinv (by simp [Mapper.wf, Mapper.cartridge, hwf, hprogram])
  | powered hslot => exact resetTo_inv hinv hslot _ true
  | reset hslot => exact resetTo_inv hinv hslot _ s.connected
  | ticked hclock => exact clock_inv hinv hclock
  | irqTaken | nmiTaken => exact interruptedTo_inv hinv _ _
  | @stored a v =>
    obtain ⟨hwf, hsize⟩ := storeBytes_wf_below [(a, v)] hinv.ram_wf hinv.ram_size
    exact hinv.of_ram hwf hsize rfl rfl id
  | drawn hslot hram ha => exact setMapper_inv hinv (drawn_wf _ (hinv.mapper_wf _ hslot) hram ha)

theorem afterFault_inv {s : State} (hinv : Inv s) (op : HostOp) : Inv (s.afterFault op) :=
  hinv.of_ram (s.afterFault_ram_wf op) (s.afterFault_ram_below op) rfl rfl
    fun _ => getFlag_statusPulled (unspecifiedByte s op 4) .u

theorem transition_inv {op : HostOp} {s t : State} {r : HostReply} (hinv : Inv s)
    (h : transition op s = .next (t, r)) : Inv t := by
  obtain ⟨q, hq, -⟩ | ⟨f, -, rfl, -⟩ := transition_next h
  · exact (hostOp_next hq).inv hinv
  · exact afterFault_inv hinv op

theorem hostRunFrom_inv {ops : List HostOp} {w : Bool} {s t : State} (hinv : Inv s)
    (h : hostRunFrom w ops s = .next t) : Inv t := by
  induction ops generalizing w s with
  | nil => exact Host.Outcome.next.inj h ▸ hinv
  | cons op ops ih =>
    obtain ⟨-, u, r, hu, hrest⟩ := hostRunFrom_cons_next h
    exact ih (transition_inv hinv hu) hrest

theorem built_inv (params : Params) {ramInit : Memory} (hwf : ramInit.wf = true)
    (hsize : ramInit.below 2048 = true) : Inv (State.built params ramInit) where
  ram_wf := hwf
  ram_size := hsize
  mapper_wf _ h := absurd h (by simp [State.built])
  mapper_of_connected h := absurd h (by simp [State.built])
  unused_set _ := unused_of_reset

/-- Settles O53: each effect of an operation keeps the invariant, the faulted state keeps it by its own limits,
and a session is a list of transitions from a newly built core. -/
theorem hostOperationsKeepTheInvariant : Obligations.HostOperationsKeepTheInvariant :=
  ⟨fun _ _ _ _ hinv h => transition_inv hinv h,
    fun params _ _ _ hwf hsize h => hostRunFrom_inv (built_inv params hwf hsize) h⟩

/-- Settles O28: the session that makes it is evaluated, and the invariant is that of every session. -/
theorem resetStateMeetsTheInvariant : Obligations.ResetStateMeetsTheInvariant := by
  have hsession : hostRun [.insert Cartridge.blank, .power] (State.built Params.default []) = .next State.reset := rfl
  exact ⟨hostRunFrom_inv (built_inv Params.default rfl rfl) hsession, rfl, rfl, rfl, rfl, rfl, hsession⟩

end Sys2Proof.Machine
end

section
/-! ## Branches, calls and returns (spec 44_branch_jump.md sections 1 and 3) -/

namespace Sys2Proof.Machine

/-! ### Branches -/

/-- The target of a branch is the sum of PC and the signed offset, modulo 65,536 (spec R180, D21). -/
theorem add_signExtend16 (pc : Word) (d : Byte) :
    pc + signExtend16 d = BitVec.ofInt 16 ((pc.toNat : Int) + d.toInt) := by
  rw [signExtend16, BitVec.signExtend, BitVec.ofInt_add, BitVec.ofInt_natCast, BitVec.ofNat_toNat,
    BitVec.setWidth_eq]

/-- An instruction that is a branch on a flag having a value. -/
theorem branches_of_branch {mk : Byte → Instr} {op : Byte} {f : Flag} {v : Bool}
    (hform : ∀ d, hasForm (mk d) [op, d] 2 false)
    (hexec : ∀ d s, exec (mk d) s = branch s (mk d) d (s.flag f == v)) : branches mk op f v := by
  refine ⟨hform, fun d s h => ?notTaken, fun d s h => ?taken⟩
  case notTaken =>
    obtain ⟨-, hcost, -⟩ := hform d
    rw [hexec, branch_eq, if_neg (by simpa using h), State.charge, hcost]
    rfl
  case taken =>
    obtain ⟨-, hcost, -⟩ := hform d
    rw [hexec, branch_eq, if_pos (by simpa using h), State.charge, State.setPc_params, hcost, add_signExtend16]
    simp only [ne_eq, page_eq_iff, State.setPc_cycles]
    split <;> simp_all [State.setPc, State.setCycles]

/-- Settles O13: each is a branch on its flag having its polarity. -/
theorem branchesFollowTheirFlag : Obligations.BranchesFollowTheirFlag := by
  refine ⟨branches_of_branch ?_ fun d s => ?bcc, branches_of_branch ?_ fun d s => ?bcs,
    branches_of_branch ?_ fun d s => ?beq, branches_of_branch ?_ fun d s => ?bne,
    branches_of_branch ?_ fun d s => ?bmi, branches_of_branch ?_ fun d s => ?bpl,
    branches_of_branch ?_ fun d s => ?bvc, branches_of_branch ?_ fun d s => ?bvs⟩
  case bcc => rw [exec_bcc, beq_false]
  case bcs => rw [exec_bcs, beq_true]
  case beq => rw [exec_beq, beq_true]
  case bne => rw [exec_bne, beq_false]
  case bmi => rw [exec_bmi, beq_true]
  case bpl => rw [exec_bpl, beq_false]
  case bvc => rw [exec_bvc, beq_false]
  case bvs => rw [exec_bvs, beq_true]
  all_goals exact fun d => hasForm_of rfl rfl rfl rfl

/-! ### Calls and returns -/

theorem sub_one_sub_one (b : Byte) : b - 1 - 1 = b - 2 := by bv_omega

theorem add_one_add_one (b : Byte) : b + 1 + 1 = b + 2 := by bv_omega

theorem exec_jsr_eq (s : State) (w : Word) : exec (.jsr w) s = .next { s with
    ram := (s.ram.write (0x100 + s.sp.toNat) (hiByte (s.pc - 1))).write (0x100 + (s.sp - 1).toNat) (loByte (s.pc - 1))
    sp := s.sp - 2
    pc := w
    cycles := s.cycles + 6 } := by
  have hform : hasForm (.jsr w) [0x20#8, loByte w, hiByte w] 6 false := hasForm_of rfl rfl rfl rfl
  rw [exec_jsr, inherent_eq hform (by simp) (by simp), ← sub_one_sub_one]
  simp only [State.push, State.setRam, State.setSp, State.setPc, stackIndex]

theorem exec_rts_eq (s : State) : exec .rts s = .next { s with
    sp := s.sp + 2
    pc := mkWord (s.ram.read (0x100 + (s.sp + 2).toNat)) (s.ram.read (0x100 + (s.sp + 1).toNat)) + 1
    cycles := s.cycles + 6 } := by
  have hform : hasForm .rts [0x60#8] 6 false := hasForm_of rfl rfl rfl rfl
  rw [exec_rts, inherent_eq hform rfl rfl, ← add_one_add_one]
  rfl

/-- Settles O15: a call is two pushes, a return two pulls. -/
theorem callAndReturn : Obligations.CallAndReturn :=
  ⟨fun _ => hasForm_of rfl rfl rfl rfl, hasForm_of rfl rfl rfl rfl, exec_jsr_eq, exec_rts_eq⟩

/-- Two stack pointers name two locations. -/
theorem stackLocation_ne {p q : Byte} (h : p ≠ q) : 0x100 + p.toNat ≠ 0x100 + q.toNat :=
  fun he => h (stackIndex_inj.1 he)

/-- Settles O16: the return pulls the two bytes the call pushed, which lie at two locations. -/
theorem rtsUndoesJsr : Obligations.RtsUndoesJsr := by
  intro s t u w h hram hsp
  obtain rfl := Host.Outcome.next.inj ((exec_jsr_eq s w).symm.trans h)
  have hlow : u.sp + 1 = s.sp - 1 := by rw [hsp]; bv_omega
  have hhigh : u.sp + 2 = s.sp := by rw [hsp]; bv_omega
  have hdistinct : s.sp ≠ s.sp - 1 := by bv_omega
  refine ⟨_, exec_rts_eq u, ?pc, hhigh, hram, rfl⟩
  case pc =>
    dsimp only
    rw [hlow, hhigh, hram, Memory.read_write_same, Memory.read_write_other _ _ _ _ (stackLocation_ne hdistinct),
      Memory.read_write_same, mkWord_hiByte_loByte, BitVec.sub_add_cancel]

end Sys2Proof.Machine
end

section
/-! ## BRK, NMI and RTI (spec 45_stack_flags_system.md section 4, 60_exceptions.md sections 2, 4 and 6) -/

namespace Sys2Proof.Machine

/-! ### What lies in the frame (spec 60_exceptions.md R225) -/

section
variable (s : State) (returnPc : Word) (status : Byte)

theorem framePushed_read_status :
    (framePushed s returnPc status).read (0x100 + (s.sp - 2).toNat) = status :=
  Memory.read_write_same ..

theorem framePushed_read_low :
    (framePushed s returnPc status).read (0x100 + (s.sp - 1).toNat) = loByte returnPc := by
  have hstatus : s.sp - 1 ≠ s.sp - 2 := by bv_omega
  rw [framePushed, Memory.read_write_other _ _ _ _ (stackLocation_ne hstatus), Memory.read_write_same]

theorem framePushed_read_high :
    (framePushed s returnPc status).read (0x100 + s.sp.toNat) = hiByte returnPc := by
  have hstatus : s.sp ≠ s.sp - 2 := by bv_omega
  have hlow : s.sp ≠ s.sp - 1 := by bv_omega
  rw [framePushed, Memory.read_write_other _ _ _ _ (stackLocation_ne hstatus),
    Memory.read_write_other _ _ _ _ (stackLocation_ne hlow), Memory.read_write_same]

theorem framePushed_read_other {k : Nat} (hstatus : k ≠ 0x100 + (s.sp - 2).toNat)
    (hlow : k ≠ 0x100 + (s.sp - 1).toNat) (hhigh : k ≠ 0x100 + s.sp.toNat) :
    (framePushed s returnPc status).read k = s.ram.read k := by
  rw [framePushed, Memory.read_write_other _ _ _ _ hstatus, Memory.read_write_other _ _ _ _ hlow,
    Memory.read_write_other _ _ _ _ hhigh]

end

/-- The three locations of the frame, seen from the stack pointer after the pushes. -/
theorem frame_locations {sp sp' : Byte} (h : sp' = sp - 3) :
    sp' + 1 = sp - 2 ∧ sp' + 2 = sp - 1 ∧ sp' + 3 = sp := by
  subst h
  refine ⟨?_, ?_, ?_⟩ <;> bv_omega

/-- All the interrupt sequence can do when it goes on, field by field. -/
theorem takeInterrupt_next_eq {s t : State} {vector returnPc : Word} {status : Byte}
    (h : takeInterrupt s vector returnPc status = .next t) :
    ∃ target, t = { s with
      ram := framePushed s returnPc status, sp := s.sp - 3, p := putFlag s.p .i true, pc := target } := by
  obtain ⟨target, rfl⟩ := takeInterrupt_next h
  exact ⟨target, by rw [interruptFrame_eq]; rfl⟩

/-- Settles O24: the frame is three pushes at three locations. -/
theorem interruptFrameLiesAboveTheStackPointer : Obligations.InterruptFrameLiesAboveTheStackPointer := by
  intro s t vector returnPc status h
  obtain ⟨target, rfl⟩ := takeInterrupt_next_eq h
  obtain ⟨hstatus, hlow, hhigh⟩ := frame_locations (sp := s.sp) rfl
  dsimp only
  rw [hstatus, hlow, hhigh]
  refine ⟨rfl, framePushed_read_status .., framePushed_read_low .., framePushed_read_high ..,
    fun k => framePushed_read_other s returnPc status, rfl, rfl, rfl, getFlag_putFlag_same .., fun f hf => ?_,
    rfl, rfl, rfl, rfl⟩
  exact (getFlag_putFlag ..).trans (if_neg hf)

/-! ### RTI -/

theorem exec_rti_eq (s : State) : exec .rti s = .next { s with
    sp := s.sp + 3
    p := statusPulled (s.ram.read (0x100 + (s.sp + 1).toNat))
    pc := mkWord (s.ram.read (0x100 + (s.sp + 3).toNat)) (s.ram.read (0x100 + (s.sp + 2).toNat))
    cycles := s.cycles + 6 } := by
  have hform : hasForm .rti [0x40#8] 6 false := hasForm_of rfl rfl rfl rfl
  have hthree : s.sp + 1 + 1 + 1 = s.sp + 3 := by bv_omega
  rw [exec_rti, inherent_eq hform (by simp) (by simp), ← hthree, ← add_one_add_one]
  simp only [returnFromInterrupt, State.pop, State.pulled, State.setSp, State.setP, State.setPc, stackIndex]

/-- Settles O21: RTI is three pulls, the first of which becomes P with the Unused bit set. -/
theorem returnFromInterruptPullsStatusAndPc : Obligations.ReturnFromInterruptPullsStatusAndPc :=
  ⟨hasForm_of rfl rfl rfl rfl, fun s => ⟨_, exec_rti_eq s, flagsBecome_statusPulled _⟩⟩

/-- An RTI that finds a frame on the stack pulls it. -/
theorem exec_rti_of_frame {s t : State} {returnPc : Word} {status : Byte}
    (hram : t.ram = framePushed s returnPc status) (hsp : t.sp = s.sp - 3) :
    exec .rti t = .next { t with
      sp := s.sp, p := statusPulled status, pc := returnPc, cycles := t.cycles + 6 } := by
  obtain ⟨hstatus, hlow, hhigh⟩ := frame_locations hsp
  rw [exec_rti_eq, hstatus, hlow, hhigh, hram, framePushed_read_status, framePushed_read_low,
    framePushed_read_high, mkWord_hiByte_loByte]

/-! ### BRK -/

theorem flagsBecome_brkStatus (s : State) : flagsBecome s.p (brkStatus s) [(.i, true), (.b, true), (.u, true)] := by
  intro f
  rw [brkStatus, getFlag_statusPushedByInstruction, getFlag_putFlag]
  cases f <;> rfl

/-- All BRK can do when it goes on, field by field. -/
theorem exec_brk_next_eq {s t : State} (h : exec .brk s = .next t) :
    ∃ target, t = { s with
      ram := framePushed s (brkReturn s) (brkStatus s)
      sp := s.sp - 3
      p := putFlag s.p .i true
      pc := target
      cycles := s.cycles + 7 } := by
  obtain ⟨target, rfl⟩ := exec_brk_next h
  exact ⟨target, by rw [interruptFrame_eq]; rfl⟩

theorem takeInterrupt_noMapper {s : State} (hm : s.mapper = none) {vector : Word} (h : region vector = .cartridge)
    (returnPc : Word) (status : Byte) : takeInterrupt s vector returnPc status = .refused .noMapper := by
  rw [takeInterrupt, busRead16, busRead_noMapper h (by simpa using hm)]
  rfl

/-- Settles O20: BRK is the interrupt sequence for the vector 0xFFFE, and its cost. -/
theorem breakTakesTheSharedVector : Obligations.BreakTakesTheSharedVector := by
  refine ⟨hasForm_of rfl rfl rfl rfl, fun s m hm => ⟨_, _, ?taken, flagsBecome_putFlag s.p .i true,
    flagsBecome_brkStatus s⟩, fun s hm => ?noMapper⟩
  case taken =>
    rw [exec_brk, takeInterrupt_eq_vectorWord hm (by decide) (by decide)]
    rfl
  case noMapper => rw [exec_brk, takeInterrupt_noMapper hm (by decide), andThen_refused]

/-! ### NMI, and an IRQ after it -/

@[simp] theorem running_interruptedTo (s : State) (target : Word) (n : Nat) :
    running (s.interruptedTo target n) = running s := rfl

@[simp] theorem interruptedTo_flag_i (s : State) (target : Word) (n : Nat) :
    (s.interruptedTo target n).flag .i = true := getFlag_putFlag_same ..

/-- The Mapper of a running core. -/
theorem exists_mapper_of_running {s : State} (h : running s = true) : ∃ m, s.mapper = some m := by
  obtain ⟨-, -, hm⟩ := running_iff.1 h
  exact Option.isSome_iff_exists.1 hm

theorem hostOp_irq_of_unmasked {s : State} {m : Mapper} (hr : running s = true) (hm : s.mapper = some m)
    (h : s.flag .i = false) :
    hostOp .irq s = .next (s.interruptedTo (vectorWord m irqVector) 7, .none) :=
  hostOp_irq_of_next hr (irq_of_unmasked hm h)

theorem hostOp_irq_of_masked {s : State} (hr : running s = true) (h : s.flag .i = true) :
    hostOp .irq s = .next (s, .none) :=
  hostOp_irq_of_next hr (irq_of_masked h)

theorem hostOp_nmi_of_running {s : State} {m : Mapper} (hr : running s = true) (hm : s.mapper = some m) :
    hostOp .nmi s = .next (s.interruptedTo (vectorWord m nmiVector) 8, .none) := by
  rw [hostOp, whenRunning_of_running hr, nmi, takeInterrupt_eq_vectorWord hm (by decide) (by decide)]
  rfl

/-- Settles O23: `nmi()` is the interrupt sequence for the vector 0xFFFA whatever I is. -/
theorem nonMaskableInterrupt : Obligations.NonMaskableInterrupt := fun s _ hr hm =>
  ⟨_, _, hostOp_nmi_of_running hr hm, flagsBecome_putFlag s.p .i true, flagsBecome_statusPushedByInterrupt s.p⟩

theorem running_of_whenRunning_next {α : Type} {s : State} {x : Result α} {v : α}
    (h : whenRunning s x = .next v) : running s = true := by
  obtain ⟨hf, hc, hm, -⟩ := whenRunning_next h
  exact running_iff.2 ⟨hf, hc, hm⟩

theorem hostOp_nmi_next {s t : State} {r : HostResult} (h : hostOp .nmi s = .next (t, r)) :
    ∃ target, t = s.interruptedTo target 8 := by
  have hr := running_of_whenRunning_next h
  obtain ⟨m, hm⟩ := exists_mapper_of_running hr
  obtain ⟨rfl, -⟩ := Prod.mk.inj (Host.Outcome.next.inj ((hostOp_nmi_of_running hr hm).symm.trans h))
  exact ⟨_, rfl⟩

theorem hostOp_irq_next_of_unmasked {s t : State} {r : HostResult} (hi : s.flag .i = false)
    (h : hostOp .irq s = .next (t, r)) : ∃ target, t = s.interruptedTo target 7 := by
  have hr := running_of_whenRunning_next h
  obtain ⟨m, hm⟩ := exists_mapper_of_running hr
  obtain ⟨rfl, -⟩ := Prod.mk.inj (Host.Outcome.next.inj ((hostOp_irq_of_unmasked hr hm hi).symm.trans h))
  exact ⟨_, rfl⟩

/-- Settles O26: `nmi()` sets I on a core that goes on running, and I masks `irq()`. -/
theorem irqAfterNmiDoesNothing : Obligations.IrqAfterNmiDoesNothing := by
  intro s t r h
  have hr := running_of_whenRunning_next h
  obtain ⟨target, rfl⟩ := hostOp_nmi_next h
  exact hostOp_irq_of_masked (by rwa [running_interruptedTo]) (interruptedTo_flag_i s target 8)

/-! ### RTI after an interrupt -/

theorem flagsBecome_pulled_interrupt {p : Byte} (hu : getFlag p .u = true) :
    flagsBecome p (statusPulled (statusPushedByInterrupt p)) [(.b, false)] := by
  intro f
  rw [getFlag_statusPulled, getFlag_statusPushedByInterrupt]
  cases f <;> simp [listedOr, hu]

theorem flagsBecome_pulled_brkStatus {s : State} (hu : s.flag .u = true) :
    flagsBecome s.p (statusPulled (brkStatus s)) [(.i, true), (.b, true)] := by
  intro f
  have hu' : getFlag s.p .u = true := hu
  rw [getFlag_statusPulled, flagsBecome_brkStatus s f]
  cases f <;> simp [listedOr, hu']

/-- Settles O25: each entry leaves a frame, and the RTI pulls what it pushed. -/
theorem rtiResumesWhatWasInterrupted : Obligations.RtiResumesWhatWasInterrupted := by
  refine ⟨fun s t r op hu hop h => ?input, fun s t hu h => ?brk⟩
  case input =>
    obtain ⟨target, n, rfl⟩ : ∃ target n, t = s.interruptedTo target n := by
      obtain ⟨rfl, hi⟩ | rfl := hop
      · exact (hostOp_irq_next_of_unmasked hi h).imp fun _ ht => ⟨7, ht⟩
      · exact (hostOp_nmi_next h).imp fun _ ht => ⟨8, ht⟩
    exact ⟨_, exec_rti_of_frame (s := s) rfl rfl, rfl, rfl, rfl, rfl, rfl, flagsBecome_pulled_interrupt hu⟩
  case brk =>
    obtain ⟨target, rfl⟩ := exec_brk_next_eq h
    exact ⟨_, exec_rti_of_frame (s := s) rfl rfl, rfl, rfl, rfl, rfl, rfl, flagsBecome_pulled_brkStatus hu⟩

end Sys2Proof.Machine
end

section
/-! ## Refusals, faults and sessions (spec 60_exceptions.md sections 4, 8, 9 and 14) -/

namespace Sys2Proof.Machine

/-! ### What is refused -/

theorem whenRunning_faulted {α : Type} {s : State} (h : s.faulted = true) (x : Result α) :
    whenRunning s x = .refused .coreFaulted := if_pos h

theorem whenNotFaulted_faulted {α : Type} {s : State} (h : s.faulted = true) (x : Result α) :
    whenNotFaulted s x = .refused .coreFaulted := if_pos h

theorem whenRunning_notPowered {α : Type} {s : State} (hf : s.faulted = false) (hc : s.connected = false)
    (x : Result α) : whenRunning s x = .refused .notPowered := by
  simp [whenRunning, hf, hc]

theorem hostOp_faulted (op : HostOp) {s : State} (h : s.faulted = true) : hostOp op s = .refused .coreFaulted := by
  cases op with
  | insert c | power | read a readOnly | read16 a readOnly | write a v | graphicsRead a | graphicsWrite a v =>
    exact whenNotFaulted_faulted h _
  | reset | irq | nmi | registers | disassembly => exact whenRunning_faulted h _
  | clock => rw [hostOp, clock, whenRunning_faulted h, andThen_refused]

theorem step_faulted {s : State} (h : s.faulted = true) : step s = .refused .coreFaulted :=
  whenRunning_faulted (s := s.atNextFetch) h _

/-- Settles O37: each operation tests its precondition first, in the order of the model. -/
theorem refusedOperations : Obligations.RefusedOperations := by
  refine ⟨fun op s h => hostOp_faulted op h, fun s h => step_faulted h, fun s hf hc => ⟨?notPowered, ?step⟩,
    fun s a v readOnly hf hm => ⟨?power, fun h => ⟨?read, ?write⟩, fun h => ?read16⟩⟩
  case notPowered =>
    have hclock : hostOp .clock s = .refused .notPowered := by
      rw [hostOp, clock, whenRunning_notPowered hf hc, andThen_refused]
    intro op hop
    simp only [List.mem_cons, List.not_mem_nil, or_false] at hop
    rcases hop with rfl | rfl | rfl | rfl | rfl | rfl
    · exact hclock
    all_goals exact whenRunning_notPowered hf hc _
  case step => exact whenRunning_notPowered (s := s.atNextFetch) hf hc _
  case power => rw [hostOp, whenNotFaulted_eq hf, power, if_pos (by simp [hm]), andThen_refused]
  case read =>
    rw [hostOp_read_eq hf, busRead_noMapper ((region_eq_cartridge_iff a).2 h) hm, andThen_refused]
  case write =>
    rw [hostOp_write_eq hf, busWrite_noMapper v ((region_eq_cartridge_iff a).2 h) hm, andThen_refused]
  case read16 =>
    rw [hostOp, whenNotFaulted_eq hf]
    by_cases ha : 0x4020 ≤ a.toNat
    · exact whenReadable_refused ((region_eq_cartridge_iff a).2 ha) hm _
    · have hlow : region a ≠ .cartridge := mt (region_eq_cartridge_iff a).1 ha
      have hhigh : region (a + 1) = .cartridge := by
        rw [region_eq_cartridge_iff, BitVec.toNat_add, show (1 : Word).toNat = 1 from rfl]
        omega
      rw [whenReadable_eq (absurd · hlow), whenReadable_refused hhigh hm]

/-- Settles O38: on a running core the accessors are their computations, which answer the state they found. -/
theorem accessorsOnlyRead : Obligations.AccessorsOnlyRead := by
  refine fun s hr => ⟨whenRunning_of_running hr _, fun hc => ?owed, fun i t hc hi => ?due⟩
  case owed => rw [hostOp, whenRunning_of_running hr, disassembly, if_neg (by omega), andThen_next]
  case due => rw [hostOp, whenRunning_of_running hr, disassembly, if_pos hc, hi, andThen_next, andThen_next]

/-! ### Sessions -/

/-- A session that goes on leaves a window in which any other operations go on as a session. -/
theorem hostRunFrom_append {ops : List HostOp} {w : Bool} {s u : State} (h : hostRunFrom w ops s = .next u) :
    ∃ w', ∀ more, hostRunFrom w (ops ++ more) s = hostRunFrom w' more u := by
  induction ops generalizing w s with
  | nil => exact ⟨w, fun _ => Host.Outcome.next.inj h ▸ rfl⟩
  | cons op ops ih =>
    obtain ⟨hw, v, r, hv, hrest⟩ := hostRunFrom_cons_next h
    obtain ⟨w', hmore⟩ := ih hrest
    exact ⟨w', fun more => (hostRunFrom_cons_of (ops ++ more) hw hv).trans (hmore more)⟩

/-- An `nmi()` reads its vector in cartridge space, where no access faults. -/
theorem hostOp_nmi_ne_fault (s : State) (f : Fault) : hostOp .nmi s ≠ .fault f := by
  intro h
  cases hr : running s with
  | true =>
    obtain ⟨m, hm⟩ := exists_mapper_of_running hr
    rw [hostOp_nmi_of_running hr hm] at h
    cases h
  | false =>
    obtain ⟨r, hrefused⟩ := whenRunning_of_not_running hr
    rw [hostOp, hrefused s rfl rfl rfl] at h
    cases h

/-- In any window, an operation that faults leads a session to the faulted state. -/
theorem hostRunFrom_fault {op : HostOp} {s : State} {f : Fault} (h : hostOp op s = .fault f) (w : Bool)
    (more : List HostOp) :
    hostRunFrom w (op :: more) s = hostRunFrom (irqPresented w op s) more (s.afterFault op) :=
  hostRunFrom_cons_of more (fun ⟨_, hnmi⟩ => hostOp_nmi_ne_fault s f (hnmi ▸ h)) (transition_of_fault h)

theorem transition_faulted (op : HostOp) {s : State} (h : s.faulted = true) :
    transition op s = .refused .coreFaulted :=
  transition_of_refused (hostOp_faulted op h)

/-- Settles O59: the transition is into the faulted state, where every precondition fails. -/
theorem busFaultIsFinal : Obligations.BusFaultIsFinal := by
  intro op s f h
  have hfaulted := s.afterFault_faulted op
  refine ⟨s.afterFault op, transition_of_fault h, hfaulted, rfl, rfl, rfl, s.afterFault_ram_below op,
    fun next => transition_faulted next hfaulted, step_faulted hfaulted, fun ops u hrun => ?last,
    fun ops more next u v hrun => ?never⟩
  case last =>
    obtain ⟨w, happend⟩ := hostRunFrom_append hrun
    exact (happend [op]).trans (hostRunFrom_fault h w [])
  case never =>
    obtain ⟨w, happend⟩ := hostRunFrom_append hrun
    rw [hostRun, happend, hostRunFrom_fault h, hostRunFrom_refused more (transition_faulted next hfaulted)]
    nofun

/-! ### The order of interrupts in a window (spec 60_exceptions.md R229) -/

/-- Only a CPU clock closes a window in which an `irq()` has been presented. -/
theorem irqPresented_true_eq_false {op : HostOp} {s : State} (h : irqPresented true op s = false) :
    op = .clock ∧ (s.mclk + 1) % 3 = 0 := by
  cases op with
  | clock => exact ⟨rfl, by simpa [irqPresented] using h⟩
  | _ => exact Bool.noConfusion h

/-- A session that goes on from a window with an `irq()` to an `nmi()` has a CPU clock before it. -/
theorem cpuClock_before_nmi {between after : List HostOp} {s t : State}
    (h : hostRunFrom true (between ++ HostOp.nmi :: after) s = .next t) :
    ∃ first rest u, between = first ++ HostOp.clock :: rest ∧ hostRunFrom true first s = .next u ∧
      (u.mclk + 1) % 3 = 0 := by
  induction between generalizing s with
  | nil =>
    obtain ⟨hallowed, -⟩ := hostRunFrom_cons_next h
    exact absurd ⟨rfl, rfl⟩ hallowed
  | cons op between ih =>
    obtain ⟨hallowed, u, r, hu, hrest⟩ := hostRunFrom_cons_next h
    cases hw : irqPresented true op s with
    | false =>
      obtain ⟨rfl, hmclk⟩ := irqPresented_true_eq_false hw
      exact ⟨[], between, s, rfl, rfl, hmclk⟩
    | true =>
      rw [hw] at hrest
      obtain ⟨first, rest, v, rfl, hrun, hmclk⟩ := ih hrest
      exact ⟨op :: first, rest, v, rfl, by rw [hostRunFrom_cons_of first hallowed hu, hw, hrun], hmclk⟩

/-- On a running core `irq()` goes on, masked or taken, and the core runs on. -/
theorem hostOp_irq_goes_on {s : State} (hr : running s = true) :
    ∃ t, hostOp .irq s = .next (t, .none) ∧ running t = true := by
  cases hi : s.flag .i with
  | true => exact ⟨s, hostOp_irq_of_masked hr hi, hr⟩
  | false =>
    obtain ⟨m, hm⟩ := exists_mapper_of_running hr
    exact ⟨_, hostOp_irq_of_unmasked hr hm hi, by rwa [running_interruptedTo]⟩

/-- Settles O60: the window after an `irq()` is followed up to the `nmi()`; in the other order I masks the
`irq()`. -/
theorem nmiComesFirstInAWindow : Obligations.NmiComesFirstInAWindow := by
  refine ⟨fun before between after s t h => ?between, fun s hr => ⟨?refused, ?masked⟩⟩
  case between =>
    obtain ⟨u, -, hu, -⟩ := hostRunFrom_append_next before h
    obtain ⟨w, happend⟩ := hostRunFrom_append hu
    obtain ⟨hallowed, v, r, hv, hrest⟩ := hostRunFrom_cons_next ((happend _).symm.trans h)
    obtain ⟨first, rest, x, rfl, hrun, hmclk⟩ := cpuClock_before_nmi hrest
    exact ⟨first, rest, x, rfl,
      (happend _).trans ((hostRunFrom_cons_of first hallowed hv).trans hrun), hmclk⟩
  case refused =>
    obtain ⟨t, hirq, ht⟩ := hostOp_irq_goes_on hr
    obtain ⟨m, hm⟩ := exists_mapper_of_running ht
    rw [hostRun, hostRunFrom_cons_of _ (by simp) (transition_of_next hirq)]
    exact hostRunFrom_nmi_after_irq [] (transition_of_next (hostOp_nmi_of_running ht hm))
  case masked =>
    obtain ⟨m, hm⟩ := exists_mapper_of_running hr
    have hnmi := hostOp_nmi_of_running hr hm
    have hirq := irqAfterNmiDoesNothing _ _ _ hnmi
    rw [hostRun, hostRun, hostRunFrom_cons_of _ (by simp) (transition_of_next hnmi),
      hostRunFrom_cons_of _ (by simp) (transition_of_next hirq),
      hostRunFrom_cons_of _ (by simp) (transition_of_next hnmi)]
    rfl

end Sys2Proof.Machine
end

section
/-! ## The adder and the decimal flag, and the illegal opcodes (spec 42_arithmetic_logic.md section 1,
45_stack_flags_system.md section 5) -/

namespace Sys2Proof.Machine

/-- The adder reads the carry of P and writes flags other than D. -/
theorem addStatus_putFlag_d (p a m : Byte) (d : Bool) :
    addStatus (putFlag p .d d) a m = putFlag (addStatus p a m) .d d := by
  have hcarry : getFlag (putFlag p .d d) .c = getFlag p .c := getFlag_putFlag ..
  refine status_ext fun f => ?_
  rw [getFlag_addStatus, hcarry, getFlag_putFlag (addStatus p a m), getFlag_addStatus]
  cases f with
  | d => exact getFlag_putFlag_same ..
  | i | b | u => exact getFlag_putFlag ..
  | _ => rfl

/-- Settles O5: the formula by the bits 7 and by the signed sum; D is neither read nor written by the adder. -/
theorem overflowIsSignedOverflowWhateverDecimalIs : Obligations.OverflowIsSignedOverflowWhateverDecimalIs := by
  refine ⟨fun a m carry => ⟨addOverflow_iff_bits a m carry, addOverflow_iff_signed a m carry⟩, fun s m d => ?_⟩
  have hcarry : (s.putFlag .d d).flag .c = s.flag .c := getFlag_putFlag ..
  rw [State.addCore, hcarry, State.putFlag_p, State.putFlag_a, addStatus_putFlag_d]
  rfl

/-! ### The illegal opcodes -/

theorem isIllegalOpcode_iff_decodeBytes (op b1 b2 : Byte) :
    isIllegalOpcode op = true ↔ decodeBytes op b1 b2 = .ill op := by
  obtain ⟨hmnemonic, -⟩ := build_mnemonic op b1 b2 (entry_compatible op)
  rw [← (entry_illegal_iff op).1, ← hmnemonic]
  constructor
  · intro h
    have hop := opcode_decodeBytes op b1 b2
    change (decodeBytes op b1 b2).mnemonic = .ill at h
    generalize decodeBytes op b1 b2 = i at h hop
    cases i with
    | ill op' => exact congrArg Instr.ill hop
    | _ => exact Mnemonic.noConfusion h
  · intro h
    exact congrArg Instr.mnemonic h

theorem exec_ill_eq {op : Byte} (h : isIllegalOpcode op = true) (s : State) :
    exec (.ill op) s = .next { s with cycles := s.cycles + illegalCycles s.params op } := by
  have hcost : baseCycles s.params (.ill op) = illegalCycles s.params op := by
    simp only [baseCycles, Instr.opcode, (entry_illegal_iff op).2.2 h]
  rw [exec_ill, inherent, id, State.charge, hcost]
  rfl

/-- Settles O19: the list is finite; the table's placeholder entries are those of the list, and the placeholder
has no effect. -/
theorem illegalOpcodesDoNothing : Obligations.IllegalOpcodesDoNothing := by
  refine ⟨by decide, by decide, isIllegalOpcode_iff_decodeBytes, fun op h =>
    ⟨rfl, rfl, fun ps => one_le_illegalCycles ps op, exec_ill_eq h⟩⟩

end Sys2Proof.Machine
end

section
/-! ## Words, program ROM, the graphics port and insertion (spec 20_memory.md sections 2, 5 and 6) -/

namespace Sys2Proof.Machine

/-- The address after an address, modulo 65,536. -/
theorem add_one_eq_of_toNat {a b : Word} (h : b.toNat = (a.toNat + 1) % 65536) : a + 1 = b :=
  BitVec.eq_of_toNat_eq (by rw [h, BitVec.toNat_add]; rfl)

/-- Settles O32: a word read is its two byte reads in order. -/
theorem wordReadsAreLittleEndian : Obligations.WordReadsAreLittleEndian := by
  refine ⟨fun s a b lo hi hb hlow hhigh => ?word, fun s a b f hb => ⟨busRead16_fault_low, fun ha hhigh => ?high⟩⟩
  case word =>
    obtain rfl := add_one_eq_of_toNat hb
    exact ⟨mkWord hi lo, by rw [busRead16, hlow, andThen_next, hhigh, andThen_next], toNat_mkWord hi lo⟩
  case high =>
    obtain rfl := add_one_eq_of_toNat hb
    exact busRead16_fault_high (busRead_of_accessible ha) hhigh

/-- Masking with a power of two less one is the remainder. -/
theorem toNat_and_of_eq_two_pow_sub_one {a mask : Word} {n : Nat} (h : mask.toNat = 2 ^ n - 1) :
    (a &&& mask).toNat = a.toNat % 2 ^ n := by
  rw [BitVec.toNat_and, h, Nat.and_two_pow_sub_one_eq_mod]

theorem cpuRead_of_one_bank {c : Cartridge} (h : c.prgBanks = 1) (a : Word) :
    (Mapper.direct c).cpuRead a = c.prg.read (a.toNat % 0x4000) := by
  rw [Mapper.cpuRead, Cartridge.prgIndex, if_pos h, toNat_and_of_eq_two_pow_sub_one (n := 14) rfl]
  rfl

theorem cpuRead_of_ne_one_bank {c : Cartridge} (h : c.prgBanks ≠ 1) (a : Word) :
    (Mapper.direct c).cpuRead a = c.prg.read (a.toNat % 0x8000) := by
  rw [Mapper.cpuRead, Cartridge.prgIndex, if_neg h, toNat_and_of_eq_two_pow_sub_one (n := 15) rfl]
  rfl

/-- Settles O33: a mask is a remainder, and 0x4000 more leaves the remainder by 0x4000. -/
theorem mapperZeroReadsProgramRom : Obligations.MapperZeroReadsProgramRom := by
  refine fun c a => ⟨fun h => cpuRead_of_one_bank h a, fun h => cpuRead_of_ne_one_bank (by omega) a,
    fun h hlow hhigh => ?mirror⟩
  have hsum : (a + 0x4000#16).toNat = a.toNat + 0x4000 := by
    rw [BitVec.toNat_add, show (0x4000#16).toNat = 0x4000 from rfl]
    omega
  rw [cpuRead_of_one_bank h, cpuRead_of_one_bank h, hsum, Nat.add_mod_right]

/-! ### The graphics port -/

theorem hostOp_graphicsRead_eq {s : State} {m : Mapper} (hf : s.faulted = false) (hm : s.mapper = some m)
    (a : Word) : hostOp (.graphicsRead a) s = andThen (m.graphicsRead a) fun v => .next (s, .byte v) := by
  rw [hostOp, whenNotFaulted_eq hf, withMapper, hm]

theorem hostOp_graphicsWrite_eq {s : State} {m : Mapper} (hf : s.faulted = false) (hm : s.mapper = some m)
    (a : Word) (v : Byte) : hostOp (.graphicsWrite a v) s =
      andThen (m.graphicsWrite a v) fun m' => .next (s.setMapper (some m'), .none) := by
  rw [hostOp, whenNotFaulted_eq hf, withMapper, hm]

/-- Settles O34: the port of Mapper 0, in range and above it. -/
theorem graphicsPort : Obligations.GraphicsPort := by
  refine fun s c a v hf hm => ⟨fun ha => ⟨?read, fun hrom => ?rom, fun hram =>
    ⟨_, ?ram, fun k => Memory.read_write c.chr a.toNat v k⟩⟩, fun ha => ⟨?readAbove, ?writeAbove⟩⟩
  case read => rw [hostOp_graphicsRead_eq hf hm, Mapper.graphicsRead, if_pos ha, andThen_next]
  case rom =>
    rw [hostOp_graphicsWrite_eq hf hm, Mapper.graphicsWrite, if_pos ha, if_neg hrom, andThen_next, ← hm,
      State.setMapper_self]
  case ram =>
    rw [hostOp_graphicsWrite_eq hf hm, Mapper.graphicsWrite, if_pos ha, if_pos hram, andThen_next]
    rfl
  case readAbove =>
    rw [hostOp_graphicsRead_eq hf hm, Mapper.graphicsRead, if_neg (by omega), andThen_refused]
  case writeAbove =>
    rw [hostOp_graphicsWrite_eq hf hm, Mapper.graphicsWrite, if_neg (by omega), andThen_refused]

/-! ### Insertion -/

theorem hostOp_insert_eq {s : State} (hf : s.faulted = false) (c : Cartridge) :
    hostOp (.insert c) s = andThen (insertCartridge c s) fun (t, ok) => .next (t, .inserted ok) :=
  whenNotFaulted_eq hf _

/-- The record has the program bank its Mapper needs, unless its selector is 0 or direct-mapped and it has none. -/
theorem lacksProgram_iff {ps : Params} {c : Cartridge} : c.lacksProgram ps = true ↔
    c.prgBanks = 0 ∧ (c.mapperId = 0 ∨ registered ps c.mapperId = some .direct) := by
  simp [Cartridge.lacksProgram]

/-- In an empty slot of a core without power, a well-formed record with its program bank is given to the
factory, which may have no Mapper for it. -/
theorem insertCartridge_of_allowed {s : State} {c : Cartridge} (hm : s.mapper = none) (hc : s.connected = false)
    (hwf : c.wf = true) (hprogram : ¬ c.lacksProgram s.params = true) :
    insertCartridge c s =
      .next ((Mapper.make s.params c).elim (s, false) fun m => (s.setMapper (some m), true)) := by
  have hallowed : ¬ (s.mapper.isSome || s.connected) = true := by simp [hm, hc]
  have hrecord : ¬ (!c.wf || c.lacksProgram s.params) = true := by simp [hwf, hprogram]
  rw [insertCartridge, if_neg hallowed, if_neg hrecord]
  cases Mapper.make s.params c <;> rfl

/-- Settles O35: the preconditions in the model's order, then the registry. -/
theorem insertFillsTheSlotOnce : Obligations.InsertFillsTheSlotOnce := by
  refine fun s c hf => ⟨fun hm hc hwf hreg hprg => ?installed, fun hm hc hwf hreg hprg => ?failed,
    fun h => ?notAllowed, fun hm hc h => ?notWellFormed, fun n => ?defaults⟩
  case installed =>
    have hprogram : ¬ c.lacksProgram s.params = true := fun h => hprg (lacksProgram_iff.1 h).1
    rw [hostOp_insert_eq hf, insertCartridge_of_allowed hm hc hwf hprogram, Mapper.make, hreg]
    rfl
  case failed =>
    have hprogram : ¬ c.lacksProgram s.params = true := by
      rw [lacksProgram_iff, hreg]
      rintro ⟨hzero, hid | hdirect⟩
      · exact hprg hid hzero
      · cases hdirect
    rw [hostOp_insert_eq hf, insertCartridge_of_allowed hm hc hwf hprogram, Mapper.make, hreg]
    rfl
  case notAllowed =>
    have hfull : (s.mapper.isSome || s.connected) = true := by
      simpa [Option.isSome_iff_ne_none] using h
    rw [hostOp_insert_eq hf, insertCartridge, if_pos hfull, andThen_refused]
  case notWellFormed =>
    have hallowed : ¬ (s.mapper.isSome || s.connected) = true := by simp [hm, hc]
    have hrecord : (!c.wf || c.lacksProgram s.params) = true := by
      simpa [lacksProgram_iff] using h
    rw [hostOp_insert_eq hf, insertCartridge, if_neg hallowed, if_pos hrecord, andThen_refused]
  case defaults =>
    by_cases hn : n = 0
    · rw [if_pos hn, hn]
      rfl
    · rw [if_neg hn, registered, Params.default, List.lookup_cons, beq_false_of_ne hn]
      rfl

end Sys2Proof.Machine
end

section
/-! ## Addressing modes and SetZN (spec 40_step_and_addressing.md sections 3 to 5) -/

namespace Sys2Proof.Machine

/-- Settles O39: each address is the byte zero-extended, the sum of two bytes modulo 256, or the word itself. -/
theorem modesThatNeverCross : Obligations.ModesThatNeverCross := by
  refine fun s b w => ⟨⟨BitVec.sub_add_cancel .., rfl, rfl, rfl⟩, ⟨toNat_zeroExtend16 b, rfl, rfl⟩,
    ⟨?zpx, rfl, rfl⟩, ⟨?zpy, rfl, rfl⟩, rfl, rfl, loByte w, hiByte w, rfl, ?abs⟩
  case zpx | zpy => exact (toNat_zeroExtend16 _).trans (BitVec.toNat_add ..)
  case abs => rw [← toNat_mkWord, mkWord_hiByte_loByte]

theorem toNat_indexed_addr (base : Word) (index : Byte) :
    (indexed base index).addr.toNat = (base.toNat + index.toNat) % 65536 := by
  rw [indexed, BitVec.toNat_add, toNat_zeroExtend16]

/-- An indexed address crosses a page exactly when its high byte is not that of the base (spec R104). -/
theorem indexed_crossed_iff (base : Word) (index : Byte) :
    (indexed base index).crossed = true ↔ (indexed base index).addr.toNat / 256 ≠ base.toNat / 256 := by
  rw [ne_eq, ← page_eq_iff, indexed, bne_iff_ne]

/-- A pointer in page 0 is the word of its byte and the next, modulo 256 (spec R115, R116). -/
theorem toNat_zeroPagePointer (s : State) (b : Byte) : (zeroPagePointer s b).toNat =
    (s.ram.read ((b.toNat + 1) % 256)).toNat * 256 + (s.ram.read b.toNat).toNat := by
  rw [zeroPagePointer, toNat_mkWord, zeroPageRead, zeroPageRead, toNat_add_one]

/-- Settles O40: the modes are an indexed word, a pointer at an indexed byte, and an indexed pointer. -/
theorem indexedAndIndirectModes : Obligations.IndexedAndIndirectModes := by
  refine fun s b w => ⟨⟨toNat_indexed_addr w s.x, indexed_crossed_iff w s.x⟩,
    ⟨toNat_indexed_addr w s.y, indexed_crossed_iff w s.y⟩, ⟨?izx, rfl⟩, fun base hbase => ?izy⟩
  case izx =>
    rw [resolve, toNat_zeroPagePointer, BitVec.toNat_add, Nat.mod_add_mod]
  case izy =>
    rw [← toNat_zeroPagePointer] at hbase
    subst hbase
    exact ⟨toNat_indexed_addr (zeroPagePointer s b) s.y, indexed_crossed_iff (zeroPagePointer s b) s.y⟩

theorem status_eq_sum_of_flags : ∀ p : Byte, p.toNat =
    (getFlag p .c).toNat + 2 * (getFlag p .z).toNat + 4 * (getFlag p .i).toNat + 8 * (getFlag p .d).toNat +
      16 * (getFlag p .b).toNat + 32 * (getFlag p .u).toNat + 64 * (getFlag p .v).toNat +
      128 * (getFlag p .n).toNat := by decide

/-- Settles O41: `SetZN` writes Z and N, bit 7 being the byte's half; a status byte is its eight bits. -/
theorem setZnWritesZeroAndNegative : Obligations.SetZnWritesZeroAndNegative := by
  refine ⟨fun p v => ?_, status_eq_sum_of_flags⟩
  rw [← getLsbD_seven_eq_decide]
  exact flagsBecome_withZN p v

end Sys2Proof.Machine
end

section
/-! ## A step runs the decoded instruction (spec 40_step_and_addressing.md R101, R102) -/

namespace Sys2Proof.Machine

theorem add_ofNat_succ (pc : Word) (k : Nat) : pc + 1 + BitVec.ofNat 16 k = pc + BitVec.ofNat 16 (k + 1) := by
  rw [BitVec.ofNat_add, BitVec.add_assoc, BitVec.add_comm (BitVec.ofNat 16 k)]
  rfl

/-- The fetch of an instruction whose bytes lie at PC (spec R101). -/
theorem fetch_of_reads {s : State} {op : Byte} {bs : List Byte}
    (hlength : bs.length = (entry op).mode.operandBytes)
    (hreads : ∀ k b, (op :: bs)[k]? = some b → busRead s (s.pc + BitVec.ofNat 16 k) = .next b) :
    fetch s = .next (decodeBytes op (bs.getD 0 0) (bs.getD 1 0),
      s.setPc (s.pc + BitVec.ofNat 16 (bs.length + 1))) := by
  have hop : fetchByte s = .next (op, s.setPc (s.pc + 1)) :=
    fetchByte_eq (by simpa using hreads 0 op rfl)
  have htwo : s.pc + 1 + 1 = s.pc + 2 := add_ofNat_succ s.pc 1
  have hthree : s.pc + 2 + 1 = s.pc + 3 := by rw [← htwo, BitVec.add_assoc, BitVec.add_assoc]; rfl
  have hle := entry_operandBytes_le op
  match bs with
  | [] => simp [fetch, hop, ← hlength]
  | [b1] =>
    have hb1 : fetchByte (s.setPc (s.pc + 1)) = .next (b1, s.setPc (s.pc + 2)) :=
      htwo ▸ fetchByte_eq (hreads 1 b1 rfl)
    simp only [fetch, hop, andThen_next, ← hlength, List.length_cons, List.length_nil, hb1]
    rfl
  | [b1, b2] =>
    have hb1 : fetchByte (s.setPc (s.pc + 1)) = .next (b1, s.setPc (s.pc + 2)) :=
      htwo ▸ fetchByte_eq (hreads 1 b1 rfl)
    have hb2 : fetchByte (s.setPc (s.pc + 2)) = .next (b2, s.setPc (s.pc + 3)) :=
      hthree ▸ fetchByte_eq (hreads 2 b2 rfl)
    simp only [fetch, hop, andThen_next, ← hlength, List.length_cons, List.length_nil, hb1, hb2]
    rfl
  | _ :: _ :: _ :: _ => simp at hlength; omega

/-- Settles O42: the bytes read are the opcode and the operand bytes that were decoded, so the fetch gives the
instruction and moves PC past them. -/
theorem stepRunsTheDecodedInstruction : Obligations.StepRunsTheDecodedInstruction := by
  intro s i bytes hr hdecode hreads
  obtain ⟨hf, hc, hm⟩ := running_iff.1 hr
  obtain ⟨op, bs, hlength, rfl, rfl⟩ := decode_ok hdecode
  rw [List.append_nil] at hreads ⊢
  have hfetch := fetch_of_reads (s := (s.setCycles 0).setMclk (3 * (s.mclk / 3 + s.cycles + 1))) hlength hreads
  rw [step_eq hf hc hm, cpuStep, hfetch, andThen_next]
  rfl

end Sys2Proof.Machine
end

section
/-! ## Operands that cannot be read (spec 60_exceptions.md sections 8 and 9) -/

namespace Sys2Proof.Machine

theorem readOperand_of_disabled {s : State} {i : Instr} {o : Operand} {f : State → Byte → State}
    (h : operandDisabled s o = true) : readOperand s i o f = .fault (.busFault (resolve s o).addr) := by
  rw [readOperand, operandValue_of_disabled h, andThen_fault]

/-- An indirect jump stops as the first of its two reads that stops. -/
theorem exec_jmp_ind_fault_low {s : State} {ptr : Word} {f : Fault} (h : busRead s ptr = .fault f) :
    exec (.jmp (.ind ptr)) s = .fault f := by
  rw [exec_jmp, jumpTarget, h, andThen_fault, andThen_fault]

theorem exec_jmp_ind_fault_high {s : State} {ptr : Word} {lo : Byte} {f : Fault} (hlow : busRead s ptr = .next lo)
    (h : busRead s (pointerHighAddress ptr) = .fault f) : exec (.jmp (.ind ptr)) s = .fault f := by
  rw [exec_jmp, jumpTarget, hlow, andThen_next, h, andThen_fault, andThen_fault]

/-- Settles O50: each instruction's first access is the read of its operand, or of its pointer's bytes. -/
theorem disabledOperandsFault : Obligations.DisabledOperandsFault := by
  refine ⟨fun s o h => ?alu, fun s o h => ?ldx, fun s o h => ?ldy, fun s o h => ?bit, fun s o h => ⟨?cpx, ?cpy⟩,
    fun s ptr h => exec_jmp_ind_fault_low (busRead_disabled h), fun s ptr high hlow hhigh h => ?jumpHigh⟩
  case alu =>
    simp only [List.forall_mem_cons, List.not_mem_nil, false_imp_iff, implies_true, and_true]
    exact ⟨(exec_lda s o).trans (readOperand_of_disabled h), (exec_adc s o).trans (readOperand_of_disabled h),
      (exec_sbc s o).trans (readOperand_of_disabled h), (exec_and s o).trans (readOperand_of_disabled h),
      (exec_ora s o).trans (readOperand_of_disabled h), (exec_eor s o).trans (readOperand_of_disabled h),
      (exec_cmp s o).trans (readOperand_of_disabled h)⟩
  case ldx => exact (exec_ldx s o).trans (readOperand_of_disabled h)
  case ldy => exact (exec_ldy s o).trans (readOperand_of_disabled h)
  case bit => exact (exec_bit s o).trans (readOperand_of_disabled h)
  case cpx => exact (exec_cpx s o).trans (readOperand_of_disabled h)
  case cpy => exact (exec_cpy s o).trans (readOperand_of_disabled h)
  case jumpHigh =>
    obtain rfl := pointerHighAddress_eq hhigh
    exact exec_jmp_ind_fault_high (busRead_of_accessible hlow) (busRead_disabled h)

/-! ### Without a Mapper -/

section
variable {s : State} {i : Instr} {o : Operand} (hm : s.mapper = none) (h : region (resolve s o).addr = .cartridge)
include hm h

theorem readOperand_noMapper (ho : operandValue s o = busRead s (resolve s o).addr) (f : State → Byte → State) :
    readOperand s i o f = .refused .noMapper := by
  rw [readOperand, ho, busRead_noMapper h hm, andThen_refused]

theorem storeOperand_noMapper (v : Byte) : storeOperand s i o v = .refused .noMapper := by
  rw [storeOperand, busWrite_noMapper v h hm, andThen_refused]

theorem modifyOperand_noMapper (ho : operandValue s o = busRead s (resolve s o).addr)
    (f : Byte → Byte → Byte × Byte) : modifyOperand s i o f = .refused .noMapper := by
  rw [modifyOperand, ho, busRead_noMapper h hm, andThen_refused]

end

/-! An operand other than an immediate is a read of the Bus at its address. -/

theorem operandValue_alu (s : State) {o : AluOperand} (h : ∀ b, o ≠ .imm b) :
    operandValue s o.operand = busRead s (resolve s o.operand).addr := by
  cases o with
  | imm b => exact absurd rfl (h b)
  | _ => rfl

theorem operandValue_ldx (s : State) {o : LdxOperand} (h : ∀ b, o ≠ .imm b) :
    operandValue s o.operand = busRead s (resolve s o.operand).addr := by
  cases o with
  | imm b => exact absurd rfl (h b)
  | _ => rfl

theorem operandValue_ldy (s : State) {o : LdyOperand} (h : ∀ b, o ≠ .imm b) :
    operandValue s o.operand = busRead s (resolve s o.operand).addr := by
  cases o with
  | imm b => exact absurd rfl (h b)
  | _ => rfl

theorem operandValue_cpx (s : State) {o : CpxOperand} (h : ∀ b, o ≠ .imm b) :
    operandValue s o.operand = busRead s (resolve s o.operand).addr := by
  cases o with
  | imm b => exact absurd rfl (h b)
  | _ => rfl

theorem operandValue_bit (s : State) (o : BitOperand) :
    operandValue s o.operand = busRead s (resolve s o.operand).addr := by
  cases o <;> rfl

theorem operandValue_rmw (s : State) (o : RmwOperand) :
    operandValue s o.operand = busRead s (resolve s o.operand).addr := by
  cases o <;> rfl

theorem exec_jmp_ind_noMapper {s : State} {ptr : Word} (hm : s.mapper = none) (h : region ptr = .cartridge) :
    exec (.jmp (.ind ptr)) s = .refused .noMapper := by
  rw [exec_jmp, jumpTarget, busRead_noMapper h hm, andThen_refused, andThen_refused]

/-- Settles O51: each instruction's first access is the read or the write at its operand, or of its pointer. -/
theorem cartridgeOperandsNeedAMapper : Obligations.CartridgeOperandsNeedAMapper := by
  refine fun s hm => ⟨fun o ho h => ?alu, fun o ho h => ?ldx, fun o ho h => ?ldy, fun o h => ?bit,
    fun o ho h => ?compare, fun o h => ?sta, fun o h => ?stx, fun o h => ?sty, fun o h => ?modify,
    fun ptr h => exec_jmp_ind_noMapper hm h⟩
  case alu =>
    have hread := fun i => readOperand_noMapper (i := i) hm h (operandValue_alu s ho)
    simp only [List.forall_mem_cons, List.not_mem_nil, false_imp_iff, implies_true, and_true]
    exact ⟨(exec_lda s o).trans (hread ..), (exec_adc s o).trans (hread ..), (exec_sbc s o).trans (hread ..),
      (exec_and s o).trans (hread ..), (exec_ora s o).trans (hread ..), (exec_eor s o).trans (hread ..),
      (exec_cmp s o).trans (hread ..)⟩
  case ldx => exact (exec_ldx s o).trans (readOperand_noMapper hm h (operandValue_ldx s ho) _)
  case ldy => exact (exec_ldy s o).trans (readOperand_noMapper hm h (operandValue_ldy s ho) _)
  case bit => exact (exec_bit s o).trans (readOperand_noMapper hm h (operandValue_bit s o) _)
  case compare =>
    have hread := fun i => readOperand_noMapper (i := i) hm h (operandValue_cpx s ho)
    exact ⟨(exec_cpx s o).trans (hread ..), (exec_cpy s o).trans (hread ..)⟩
  case sta => exact (exec_sta s o).trans (storeOperand_noMapper hm h s.a)
  case stx => exact (exec_stx s o).trans (storeOperand_noMapper hm h s.x)
  case sty => exact (exec_sty s o).trans (storeOperand_noMapper hm h s.y)
  case modify =>
    have hmodify := fun i => modifyOperand_noMapper (i := i) hm h (operandValue_rmw s o)
    simp only [List.forall_mem_cons, List.not_mem_nil, false_imp_iff, implies_true, and_true]
    exact ⟨(exec_inc s o).trans (hmodify ..), (exec_dec s o).trans (hmodify ..),
      (exec_asl s _).trans (shiftOp_mem.trans (hmodify ..)), (exec_lsr s _).trans (shiftOp_mem.trans (hmodify ..)),
      (exec_rol s _).trans (shiftOp_mem.trans (hmodify ..)), (exec_ror s _).trans (shiftOp_mem.trans (hmodify ..))⟩

end Sys2Proof.Machine
end

section
/-! ## The table at given bytes (spec 30_encoding.md R83 to R86) -/

namespace Sys2Proof

/-- Settles O57: the ten words are decoded. -/
theorem decodeWords : Obligations.DecodeWords := by
  unfold Obligations.DecodeWords
  decide

/-- Settles O58: the entries of all opcode bytes are looked up. -/
theorem pageCrossEligibility : Obligations.PageCrossEligibility := by
  unfold Obligations.PageCrossEligibility
  decide

end Sys2Proof
end
